-- ==== Sys2Proof/Word.lean ====
section
/-! DEFINITION. The machine's words: bytes of memory, 32-bit registers and elements, and binary32 encodings. -/

namespace Sys2Proof

/-- One byte of system memory (R101). -/
abbrev Byte := BitVec 8

/-- A 32-bit register or a stored element zero-extended to 32 bits (R40, R71). -/
abbrev Word := BitVec 32

/-- The encoding of an IEEE 754 binary32 value (R11, R20): a register that "holds a binary32 value" holds these bits. -/
abbrev F32 := BitVec 32

/-- A triple of binary32 values: three colour channels or three colorspace coordinates (R158, R240). -/
structure Tri where
  c0 : F32
  c1 : F32
  c2 : F32
deriving DecidableEq, Repr

end Sys2Proof
end

