-- ==== Sys2Proof/Config.lean ====
section
/-! DEFINITION. What an implementation of CTP fixes (the parameters of R7, held as plain data so that every
statement covers every configuration) and the free values: constants with no body, of which nothing can be proved. -/

namespace Sys2Proof

/-- `ADDR_W` (R7, R8): the width of a bus-master address. -/
inductive AddrWidth where
  | w32
  | w64
deriving DecidableEq, Repr

/-- `LANES` (R7, R15): pixels per datapath batch; visible only in FEATURES. -/
inductive Lanes where
  | one
  | four
  | eight
deriving DecidableEq, Repr

/-- `ELEM` (R27): the correctly rounded reference record, or another implementation's record, named by a number and
with the accuracy it states: each of its values lies within `ulps` units in the last place of the correctly rounded one
(`Machine.Accurate`), and is a free value within that bound. The special cases of R28 hold for it too. -/
inductive ElemChoice where
  | correctlyRounded
  | other (id ulps : Nat)
deriving DecidableEq, Repr

/-- R27: the accuracy a record states, in units in the last place. -/
def ElemChoice.ulps : ElemChoice → Nat
  | .correctlyRounded => 0
  | .other _ n => n

/-- One clause of the platform oracle `BUS_FAULT(addr, n, is_write)` (R117): the accesses of `size` bytes whose
address lies in `lo .. hi` and whose direction is marked fault. A list of clauses writes out any such predicate. -/
structure FaultClause where
  lo : Nat
  hi : Nat
  size : Nat
  onRead : Bool
  onWrite : Bool
deriving DecidableEq, Repr

/-- The implementation parameters of R7 and the platform's choices, as plain data. No step changes them. -/
structure Config where
  /-- R8. -/
  addrW : AddrWidth
  /-- R15: not software-visible but for FEATURES. -/
  lanes : Lanes
  /-- R15: `ROW_ENGINES`, at least 1. -/
  rowEngines : Nat
  /-- R7: presence of the distance/compare unit. -/
  hasCompare : Bool
  /-- R27. -/
  elem : ElemChoice
  /-- R118. -/
  ioCoherent : Bool
  /-- R117: the oracle, clause by clause; empty means it never faults. -/
  busFaults : List FaultClause
  /-- R100, R123: where the platform placed the register window, if the engine can know it. -/
  windowBase : Option Nat
  /-- The host's cache line in bytes, for R118 when `ioCoherent` is false (log entry 13). -/
  cacheLine : Nat
deriving DecidableEq, Repr

/-- The reference configuration (R7). The spec gives no reference for the last two (log entries 5 and 13). -/
def Config.reference : Config where
  addrW := .w64
  lanes := .four
  rowEngines := 1
  hasCompare := true
  elem := .correctlyRounded
  ioCoherent := true
  busFaults := []
  windowBase := none
  cacheLine := 64

/-- The legal configurations: `ROW_ENGINES ≥ 1` (R7), and a cache line holds a byte; every other parameter's type holds
its legal values only. -/
abbrev Config.wf (cfg : Config) : Prop := 1 ≤ cfg.rowEngines ∧ 1 ≤ cfg.cacheLine

/-! ### Free values (DESIGN CHOICE; log entries 2, 3 and 4): opaque, so no proof can lean on one. -/

/-- R112, R118: the byte drawn at draw number `n` where the spec says "any value". -/
opaque Config.freeByte : Nat → Byte

/-- `pow` where neither R27 nor R28 gives its value: an infinite exponent on a finite positive base, and a negative
exponent on +inf. Used by `Machine.openPow`, which keeps it from NaN (R209). -/
opaque Config.powOpen : F32 → F32 → F32

/-- The elementary functions of an `ELEM` record other than the reference one (R27), by the record's number. Used by
`Machine.recordValue`, which keeps them within the record's stated accuracy. -/
opaque Config.otherCbrt : Nat → F32 → F32
opaque Config.otherPow : Nat → F32 → F32 → F32
opaque Config.otherExp : Nat → F32 → F32
opaque Config.otherLn : Nat → F32 → F32
opaque Config.otherLog10 : Nat → F32 → F32
opaque Config.otherExp10 : Nat → F32 → F32
opaque Config.otherAtan2 : Nat → F32 → F32 → F32
opaque Config.otherSin : Nat → F32 → F32
opaque Config.otherCos : Nat → F32 → F32
opaque Config.otherHypot : Nat → F32 → F32 → F32

end Sys2Proof
end

