-- ==== Sys2Proof/Syntax.lean ====
section
/-! DEFINITION. The command set: the codes of the command word's fields (R141 to R148) and one constructor of `Instr`
for each of the 55 rows of the opcode table (R150). -/

namespace Sys2Proof

/-- Channel layouts (R142). -/
inductive Layout where
  | rgb
  | rgba
  | bgr
  | bgra
deriving DecidableEq, Repr

/-- Element types (R143). -/
inductive ElemType where
  | u8
  | u16
  | f32
deriving DecidableEq, Repr

/-- A two-bit type code: an element type, or the reserved code 3 (R143). -/
inductive TypeCode where
  | elem (t : ElemType)
  | reserved
deriving DecidableEq, Repr

/-- Transfer curves (R144). -/
inductive Curve where
  | none
  | srgb
  | rec709
  | rec2020
  | rec601
  | smpte428
  | log100
  | log100Sqrt10
  | pq
  | hlg
  | power
deriving DecidableEq, Repr

/-- A four-bit TF code: a curve, or the reserved code `11 + k` (R144). -/
inductive TfCode where
  | curve (c : Curve)
  | reserved (k : Fin 5)
deriving DecidableEq, Repr

/-- Alpha modes (R145). -/
inductive AlphaMode where
  | none
  | pass
  | const
deriving DecidableEq, Repr

/-- A two-bit AMODE code: a mode, or the reserved code 3 (R145). -/
inductive AmodeCode where
  | mode (m : AlphaMode)
  | reserved
deriving DecidableEq, Repr

/-- Equality rules of CMP_EQ (R148). -/
inductive EqSpace where
  | standard
  | luv
  | lch
deriving DecidableEq, Repr

/-- A three-bit SPACE code: an equality rule, or the reserved code `3 + k` (R148). -/
inductive SpaceCode where
  | space (s : EqSpace)
  | reserved (k : Fin 5)
deriving DecidableEq, Repr

/-- The fields of a command word beside OP (R141). Every code is representable: which combinations are legal is the
START check's business (R151, R153). -/
structure Cmd where
  srcLayout : Layout
  srcType : TypeCode
  dstLayout : Layout
  dstType : TypeCode
  tf : TfCode
  amode : AmodeCode
  imm : Bool
  pos : Fin 4
  space : SpaceCode
deriving DecidableEq, Repr

/-- The commands (R150), in the opcode table's order. NOP ignores every bit beside OP (R331), so it has no operand. -/
inductive Instr where
  /-- NOP, OP 0x00 (R331). -/
  | nop
  /-- LINEARIZE, OP 0x01 (R210). -/
  | linearize (c : Cmd)
  /-- GAMMA, OP 0x02 (R211). -/
  | gamma (c : Cmd)
  /-- RGB_TO_XYZ, OP 0x10 (R334). -/
  | rgbToXyz (c : Cmd)
  /-- XYZ_TO_RGB, OP 0x11 (R335). -/
  | xyzToRgb (c : Cmd)
  /-- RGB_TO_LAB, OP 0x12 (R336). -/
  | rgbToLab (c : Cmd)
  /-- LAB_TO_RGB, OP 0x13 (R337). -/
  | labToRgb (c : Cmd)
  /-- RGB_TO_LUV, OP 0x14 (R338). -/
  | rgbToLuv (c : Cmd)
  /-- LUV_TO_RGB, OP 0x15 (R339). -/
  | luvToRgb (c : Cmd)
  /-- RGB_TO_LCH, OP 0x16 (R340). -/
  | rgbToLch (c : Cmd)
  /-- LCH_TO_RGB, OP 0x17 (R341). -/
  | lchToRgb (c : Cmd)
  /-- RGB_TO_OKLAB, OP 0x18 (R342). -/
  | rgbToOklab (c : Cmd)
  /-- OKLAB_TO_RGB, OP 0x19 (R343). -/
  | oklabToRgb (c : Cmd)
  /-- RGB_TO_OKLCH, OP 0x1A (R344). -/
  | rgbToOklch (c : Cmd)
  /-- OKLCH_TO_RGB, OP 0x1B (R345). -/
  | oklchToRgb (c : Cmd)
  /-- RGB_TO_JZAZBZ, OP 0x1C (R346). -/
  | rgbToJzazbz (c : Cmd)
  /-- JZAZBZ_TO_RGB, OP 0x1D (R347). -/
  | jzazbzToRgb (c : Cmd)
  /-- RGB_TO_JZCZHZ, OP 0x1E (R348). -/
  | rgbToJzczhz (c : Cmd)
  /-- JZCZHZ_TO_RGB, OP 0x1F (R349). -/
  | jzczhzToRgb (c : Cmd)
  /-- RGB_TO_HSV, OP 0x20 (R350). -/
  | rgbToHsv (c : Cmd)
  /-- HSV_TO_RGB, OP 0x21 (R351). -/
  | hsvToRgb (c : Cmd)
  /-- RGB_TO_HSL, OP 0x22 (R352). -/
  | rgbToHsl (c : Cmd)
  /-- HSL_TO_RGB, OP 0x23 (R353). -/
  | hslToRgb (c : Cmd)
  /-- RGB_TO_SIGMOID, OP 0x24 (R354). -/
  | rgbToSigmoid (c : Cmd)
  /-- SIGMOID_TO_RGB, OP 0x25 (R355). -/
  | sigmoidToRgb (c : Cmd)
  /-- RGB_TO_LALPHABETA, OP 0x26 (R356). -/
  | rgbToLalphabeta (c : Cmd)
  /-- LALPHABETA_TO_RGB, OP 0x27 (R357). -/
  | lalphabetaToRgb (c : Cmd)
  /-- XYZ_TO_LAB, OP 0x30 (R360). -/
  | xyzToLab (c : Cmd)
  /-- LAB_TO_XYZ, OP 0x31 (R361). -/
  | labToXyz (c : Cmd)
  /-- XYZ_TO_LUV, OP 0x32 (R362). -/
  | xyzToLuv (c : Cmd)
  /-- LUV_TO_XYZ, OP 0x33 (R363). -/
  | luvToXyz (c : Cmd)
  /-- LUV_TO_LCH, OP 0x34 (R364). -/
  | luvToLch (c : Cmd)
  /-- LCH_TO_LUV, OP 0x35 (R365). -/
  | lchToLuv (c : Cmd)
  /-- OKLAB_TO_OKLCH, OP 0x36 (R366). -/
  | oklabToOklch (c : Cmd)
  /-- OKLCH_TO_OKLAB, OP 0x37 (R367). -/
  | oklchToOklab (c : Cmd)
  /-- XYZ_TO_JZAZBZ, OP 0x38 (R368). -/
  | xyzToJzazbz (c : Cmd)
  /-- JZAZBZ_TO_XYZ, OP 0x39 (R369). -/
  | jzazbzToXyz (c : Cmd)
  /-- JZAZBZ_TO_JZCZHZ, OP 0x3A (R370). -/
  | jzazbzToJzczhz (c : Cmd)
  /-- JZCZHZ_TO_JZAZBZ, OP 0x3B (R371). -/
  | jzczhzToJzazbz (c : Cmd)
  /-- XYZ_TO_LALPHABETA, OP 0x3C (R372). -/
  | xyzToLalphabeta (c : Cmd)
  /-- LALPHABETA_TO_XYZ, OP 0x3D (R373). -/
  | lalphabetaToXyz (c : Cmd)
  /-- COPY, OP 0x40 (R401). -/
  | copy (c : Cmd)
  /-- EXPAND, OP 0x41 (R402). -/
  | expand (c : Cmd)
  /-- STRIP, OP 0x42 (R403). -/
  | strip (c : Cmd)
  /-- DEINTERLEAVE, OP 0x43 (R404). -/
  | deinterleave (c : Cmd)
  /-- INTERLEAVE, OP 0x44 (R405). -/
  | interleave (c : Cmd)
  /-- PACK565, OP 0x45 (R407). -/
  | pack565 (c : Cmd)
  /-- UNPACK565_SHIFTED, OP 0x46 (R408). -/
  | unpack565Shifted (c : Cmd)
  /-- UNPACK565_SCALED, OP 0x47 (R410). -/
  | unpack565Scaled (c : Cmd)
  /-- PACK1010102, OP 0x48 (R411). -/
  | pack1010102 (c : Cmd)
  /-- UNPACK1010102_SHIFTED, OP 0x49 (R412). -/
  | unpack1010102Shifted (c : Cmd)
  /-- UNPACK1010102_SCALED, OP 0x4A (R413). -/
  | unpack1010102Scaled (c : Cmd)
  /-- DIST_EUCLID, OP 0x50 (R451). -/
  | distEuclid (c : Cmd)
  /-- DIST_TAXICAB, OP 0x51 (R452). -/
  | distTaxicab (c : Cmd)
  /-- CMP_EQ, OP 0x52 (R453). -/
  | cmpEq (c : Cmd)
deriving DecidableEq, Repr

/-- The fields of a command other than NOP. -/
def Instr.cmd? : Instr → Option Cmd
  | .nop => none
  | .linearize c => some c
  | .gamma c => some c
  | .rgbToXyz c => some c
  | .xyzToRgb c => some c
  | .rgbToLab c => some c
  | .labToRgb c => some c
  | .rgbToLuv c => some c
  | .luvToRgb c => some c
  | .rgbToLch c => some c
  | .lchToRgb c => some c
  | .rgbToOklab c => some c
  | .oklabToRgb c => some c
  | .rgbToOklch c => some c
  | .oklchToRgb c => some c
  | .rgbToJzazbz c => some c
  | .jzazbzToRgb c => some c
  | .rgbToJzczhz c => some c
  | .jzczhzToRgb c => some c
  | .rgbToHsv c => some c
  | .hsvToRgb c => some c
  | .rgbToHsl c => some c
  | .hslToRgb c => some c
  | .rgbToSigmoid c => some c
  | .sigmoidToRgb c => some c
  | .rgbToLalphabeta c => some c
  | .lalphabetaToRgb c => some c
  | .xyzToLab c => some c
  | .labToXyz c => some c
  | .xyzToLuv c => some c
  | .luvToXyz c => some c
  | .luvToLch c => some c
  | .lchToLuv c => some c
  | .oklabToOklch c => some c
  | .oklchToOklab c => some c
  | .xyzToJzazbz c => some c
  | .jzazbzToXyz c => some c
  | .jzazbzToJzczhz c => some c
  | .jzczhzToJzazbz c => some c
  | .xyzToLalphabeta c => some c
  | .lalphabetaToXyz c => some c
  | .copy c => some c
  | .expand c => some c
  | .strip c => some c
  | .deinterleave c => some c
  | .interleave c => some c
  | .pack565 c => some c
  | .unpack565Shifted c => some c
  | .unpack565Scaled c => some c
  | .pack1010102 c => some c
  | .unpack1010102Shifted c => some c
  | .unpack1010102Scaled c => some c
  | .distEuclid c => some c
  | .distTaxicab c => some c
  | .cmpEq c => some c

end Sys2Proof
end

