-- ==== Sys2Proof/WellFormed.lean ====
section
/-! DEFINITION. Well-formed commands: no field holds a reserved code (R143, R144, R145, R148; R512 (c)). Which
combinations of defined codes an opcode allows (R151) is checked by the machine when START is accepted. -/

namespace Sys2Proof

/-- R143: type code 3 is reserved. -/
def TypeCode.isDefined : TypeCode → Bool
  | .elem _ => true
  | .reserved => false

/-- R144: TF codes 11 to 15 are reserved. -/
def TfCode.isDefined : TfCode → Bool
  | .curve _ => true
  | .reserved _ => false

/-- R145: AMODE code 3 is reserved. -/
def AmodeCode.isDefined : AmodeCode → Bool
  | .mode _ => true
  | .reserved => false

/-- R148: SPACE codes 3 to 7 are reserved. -/
def SpaceCode.isDefined : SpaceCode → Bool
  | .space _ => true
  | .reserved _ => false

/-- No field of the command holds a reserved code. -/
def Cmd.wellFormed (c : Cmd) : Bool :=
  c.srcType.isDefined && c.dstType.isDefined && c.tf.isDefined && c.amode.isDefined && c.space.isDefined

/-- NOP is well-formed whatever its ignored bits (R331); any other command is if its fields are. -/
def Instr.wellFormed (i : Instr) : Bool :=
  match i.cmd? with
  | none => true
  | some c => c.wellFormed

end Sys2Proof
end

