-- ==== Sys2Proof/Decode.lean ====
section
/-! DEFINITION. Decoding the command word (R141, R150, R157), total on every 32-bit word and rejecting by name, and the
encoder (R156), both from the same code tables. -/

namespace Sys2Proof

/-- Why a word is no command of the table. Each is answered by the architected error ILLEGAL_CMD (R153, R154). -/
inductive DecodeError where
  /-- Bit 23 or one of bits 31:29 is set (R149). -/
  | reservedBits
  /-- OP is a reserved value (R154). -/
  | reservedOp
  /-- OP lies in the custom space 0xE0 to 0xFF, which this implementation leaves empty (R154). -/
  | customOp
deriving DecidableEq, Repr

/-! ### Code tables -/

def Layout.code : Layout → Nat
  | .rgb => 0
  | .rgba => 1
  | .bgr => 2
  | .bgra => 3

/-- R142; `n` is a two-bit field. -/
def Layout.ofCode : Nat → Layout
  | 0 => .rgb
  | 1 => .rgba
  | 2 => .bgr
  | _ => .bgra

def TypeCode.code : TypeCode → Nat
  | .elem .u8 => 0
  | .elem .u16 => 1
  | .elem .f32 => 2
  | .reserved => 3

/-- R143. -/
def TypeCode.ofCode : Nat → TypeCode
  | 0 => .elem .u8
  | 1 => .elem .u16
  | 2 => .elem .f32
  | _ => .reserved

def Curve.code : Curve → Nat
  | .none => 0
  | .srgb => 1
  | .rec709 => 2
  | .rec2020 => 3
  | .rec601 => 4
  | .smpte428 => 5
  | .log100 => 6
  | .log100Sqrt10 => 7
  | .pq => 8
  | .hlg => 9
  | .power => 10

def TfCode.code : TfCode → Nat
  | .curve c => c.code
  | .reserved k => 11 + k.val

/-- R144. -/
def TfCode.ofCode : Nat → TfCode
  | 0 => .curve .none
  | 1 => .curve .srgb
  | 2 => .curve .rec709
  | 3 => .curve .rec2020
  | 4 => .curve .rec601
  | 5 => .curve .smpte428
  | 6 => .curve .log100
  | 7 => .curve .log100Sqrt10
  | 8 => .curve .pq
  | 9 => .curve .hlg
  | 10 => .curve .power
  | n => .reserved (Fin.ofNat 5 (n - 11))

def AmodeCode.code : AmodeCode → Nat
  | .mode .none => 0
  | .mode .pass => 1
  | .mode .const => 2
  | .reserved => 3

/-- R145. -/
def AmodeCode.ofCode : Nat → AmodeCode
  | 0 => .mode .none
  | 1 => .mode .pass
  | 2 => .mode .const
  | _ => .reserved

def SpaceCode.code : SpaceCode → Nat
  | .space .standard => 0
  | .space .luv => 1
  | .space .lch => 2
  | .reserved k => 3 + k.val

/-- R148. -/
def SpaceCode.ofCode : Nat → SpaceCode
  | 0 => .space .standard
  | 1 => .space .luv
  | 2 => .space .lch
  | n => .reserved (Fin.ofNat 5 (n - 3))

/-! ### Decoding -/

/-- The unsigned field of `len` bits from bit `lo` up (R11, R155). -/
def bits (w : Word) (lo len : Nat) : Nat := w.toNat / 2 ^ lo % 2 ^ len

/-- The fields beside OP (R157). -/
def decodeFields (w : Word) : Cmd where
  srcLayout := Layout.ofCode (bits w 8 2)
  srcType := TypeCode.ofCode (bits w 10 2)
  dstLayout := Layout.ofCode (bits w 12 2)
  dstType := TypeCode.ofCode (bits w 14 2)
  tf := TfCode.ofCode (bits w 16 4)
  amode := AmodeCode.ofCode (bits w 20 2)
  imm := decide (bits w 22 1 = 1)
  pos := Fin.ofNat 4 (bits w 24 2)
  space := SpaceCode.ofCode (bits w 26 3)

/-- The opcode map (R150): the command with a given OP other than 0. -/
def ofOpcode (op : Nat) (c : Cmd) : Option Instr :=
  match op with
  | 0x01 => some (.linearize c)
  | 0x02 => some (.gamma c)
  | 0x10 => some (.rgbToXyz c)
  | 0x11 => some (.xyzToRgb c)
  | 0x12 => some (.rgbToLab c)
  | 0x13 => some (.labToRgb c)
  | 0x14 => some (.rgbToLuv c)
  | 0x15 => some (.luvToRgb c)
  | 0x16 => some (.rgbToLch c)
  | 0x17 => some (.lchToRgb c)
  | 0x18 => some (.rgbToOklab c)
  | 0x19 => some (.oklabToRgb c)
  | 0x1A => some (.rgbToOklch c)
  | 0x1B => some (.oklchToRgb c)
  | 0x1C => some (.rgbToJzazbz c)
  | 0x1D => some (.jzazbzToRgb c)
  | 0x1E => some (.rgbToJzczhz c)
  | 0x1F => some (.jzczhzToRgb c)
  | 0x20 => some (.rgbToHsv c)
  | 0x21 => some (.hsvToRgb c)
  | 0x22 => some (.rgbToHsl c)
  | 0x23 => some (.hslToRgb c)
  | 0x24 => some (.rgbToSigmoid c)
  | 0x25 => some (.sigmoidToRgb c)
  | 0x26 => some (.rgbToLalphabeta c)
  | 0x27 => some (.lalphabetaToRgb c)
  | 0x30 => some (.xyzToLab c)
  | 0x31 => some (.labToXyz c)
  | 0x32 => some (.xyzToLuv c)
  | 0x33 => some (.luvToXyz c)
  | 0x34 => some (.luvToLch c)
  | 0x35 => some (.lchToLuv c)
  | 0x36 => some (.oklabToOklch c)
  | 0x37 => some (.oklchToOklab c)
  | 0x38 => some (.xyzToJzazbz c)
  | 0x39 => some (.jzazbzToXyz c)
  | 0x3A => some (.jzazbzToJzczhz c)
  | 0x3B => some (.jzczhzToJzazbz c)
  | 0x3C => some (.xyzToLalphabeta c)
  | 0x3D => some (.lalphabetaToXyz c)
  | 0x40 => some (.copy c)
  | 0x41 => some (.expand c)
  | 0x42 => some (.strip c)
  | 0x43 => some (.deinterleave c)
  | 0x44 => some (.interleave c)
  | 0x45 => some (.pack565 c)
  | 0x46 => some (.unpack565Shifted c)
  | 0x47 => some (.unpack565Scaled c)
  | 0x48 => some (.pack1010102 c)
  | 0x49 => some (.unpack1010102Shifted c)
  | 0x4A => some (.unpack1010102Scaled c)
  | 0x50 => some (.distEuclid c)
  | 0x51 => some (.distTaxicab c)
  | 0x52 => some (.cmpEq c)
  | _ => none

/-- R157, R331: OP alone selects the command; NOP ignores every other bit, the reserved ones too. -/
def decode (w : Word) : Except DecodeError Instr :=
  if bits w 0 8 = 0 then .ok .nop
  else if bits w 23 1 ≠ 0 ∨ bits w 29 3 ≠ 0 then .error .reservedBits
  else
    match ofOpcode (bits w 0 8) (decodeFields w) with
    | some i => .ok i
    | none => .error (if 0xE0 ≤ bits w 0 8 then .customOp else .reservedOp)

/-! ### Encoding -/

/-- The OP value of a command (R150). -/
def Instr.opcode : Instr → Nat
  | .nop => 0x00
  | .linearize _ => 0x01
  | .gamma _ => 0x02
  | .rgbToXyz _ => 0x10
  | .xyzToRgb _ => 0x11
  | .rgbToLab _ => 0x12
  | .labToRgb _ => 0x13
  | .rgbToLuv _ => 0x14
  | .luvToRgb _ => 0x15
  | .rgbToLch _ => 0x16
  | .lchToRgb _ => 0x17
  | .rgbToOklab _ => 0x18
  | .oklabToRgb _ => 0x19
  | .rgbToOklch _ => 0x1A
  | .oklchToRgb _ => 0x1B
  | .rgbToJzazbz _ => 0x1C
  | .jzazbzToRgb _ => 0x1D
  | .rgbToJzczhz _ => 0x1E
  | .jzczhzToRgb _ => 0x1F
  | .rgbToHsv _ => 0x20
  | .hsvToRgb _ => 0x21
  | .rgbToHsl _ => 0x22
  | .hslToRgb _ => 0x23
  | .rgbToSigmoid _ => 0x24
  | .sigmoidToRgb _ => 0x25
  | .rgbToLalphabeta _ => 0x26
  | .lalphabetaToRgb _ => 0x27
  | .xyzToLab _ => 0x30
  | .labToXyz _ => 0x31
  | .xyzToLuv _ => 0x32
  | .luvToXyz _ => 0x33
  | .luvToLch _ => 0x34
  | .lchToLuv _ => 0x35
  | .oklabToOklch _ => 0x36
  | .oklchToOklab _ => 0x37
  | .xyzToJzazbz _ => 0x38
  | .jzazbzToXyz _ => 0x39
  | .jzazbzToJzczhz _ => 0x3A
  | .jzczhzToJzazbz _ => 0x3B
  | .xyzToLalphabeta _ => 0x3C
  | .lalphabetaToXyz _ => 0x3D
  | .copy _ => 0x40
  | .expand _ => 0x41
  | .strip _ => 0x42
  | .deinterleave _ => 0x43
  | .interleave _ => 0x44
  | .pack565 _ => 0x45
  | .unpack565Shifted _ => 0x46
  | .unpack565Scaled _ => 0x47
  | .pack1010102 _ => 0x48
  | .unpack1010102Shifted _ => 0x49
  | .unpack1010102Scaled _ => 0x4A
  | .distEuclid _ => 0x50
  | .distTaxicab _ => 0x51
  | .cmpEq _ => 0x52

/-- The bits of the fields beside OP (R156). -/
def encodeFields (c : Cmd) : Nat :=
  c.srcLayout.code * 2 ^ 8 + c.srcType.code * 2 ^ 10 + c.dstLayout.code * 2 ^ 12 + c.dstType.code * 2 ^ 14
    + c.tf.code * 2 ^ 16 + c.amode.code * 2 ^ 20 + c.imm.toNat * 2 ^ 22 + c.pos.val * 2 ^ 24 + c.space.code * 2 ^ 26

/-- The command word (R156): bits 23 and 31:29 are zero. -/
def encode (i : Instr) : Word :=
  match i.cmd? with
  | none => BitVec.ofNat 32 i.opcode
  | some c => BitVec.ofNat 32 (i.opcode + encodeFields c)

/-- The command the decoder reads from a word given as a table's number: CMD is one 32-bit register, so the word is
the number's bits, and every bit above `nbits` is 0. -/
def decodeTableWord (nbits w : Nat) : Option Instr :=
  match decode (BitVec.ofNat 32 (w % 2 ^ nbits)) with
  | .ok i => some i
  | .error _ => none

end Sys2Proof
end

