-- ==== Sys2Proof/Machine/State.lean ====
section
/-! DEFINITION. The machine's state as plain data: the register file (R44), the coefficient bank (R73), the hidden state
(R76, R78, R79, R80), system memory (R101), and the model's own record of the host and of the open choices. -/

namespace Sys2Proof.Machine

/-! ### Register files -/

/-- Four registers of 32 bits: PIX_IN0..3 (R71) or PIX_OUT0..3 (R72). -/
structure Quad where
  p0 : Word
  p1 : Word
  p2 : Word
  p3 : Word
deriving DecidableEq, Repr

/-- A 3×3 binary32 matrix, row-major (R14, R73). -/
structure Mat3 where
  m00 : F32
  m01 : F32
  m02 : F32
  m10 : F32
  m11 : F32
  m12 : F32
  m20 : F32
  m21 : F32
  m22 : F32
deriving DecidableEq, Repr

/-- The coefficient bank: slots 0 to 11 by the names of R74. -/
structure Bank where
  /-- Slot 0, M_RGB2XYZ. -/
  rgb2xyz : Mat3
  /-- Slot 1, M_XYZ2RGB. -/
  xyz2rgb : Mat3
  /-- Slot 2, M_OK_LMS. -/
  okLms : Mat3
  /-- Slot 3, M_OK_LAB. -/
  okLab : Mat3
  /-- Slot 4, M_OK_LAB_INV. -/
  okLabInv : Mat3
  /-- Slot 5, M_OK_LMS_INV. -/
  okLmsInv : Mat3
  /-- Slot 6, M_JZ_LMS. -/
  jzLms : Mat3
  /-- Slot 7, M_JZ_IAB. -/
  jzIab : Mat3
  /-- Slot 8, M_JZ_IAB_INV. -/
  jzIabInv : Mat3
  /-- Slot 9, M_JZ_LMS_INV. -/
  jzLmsInv : Mat3
  /-- Slot 10, M_LAB_LMS. -/
  labLms : Mat3
  /-- Slot 11, M_LAB_LMS_INV. -/
  labLmsInv : Mat3
deriving DecidableEq, Repr

/-- The registers a START latches (R76): the host reads and writes them, and a job record holds a copy. -/
structure Regs where
  cmd : Word
  width : Word
  height : Word
  srcLo : Word
  srcHi : Word
  srcStride : Word
  dstLo : Word
  dstHi : Word
  dstStride : Word
  src2Lo : Word
  src2Hi : Word
  src2Stride : Word
  planePitch : Word
  defaultAlpha : Word
  gamma : F32
  xyzScale : F32
  jzLum : F32
  whiteX : F32
  whiteY : F32
  whiteZ : F32
  pixIn : Quad
  bank : Bank
deriving DecidableEq, Repr

/-! ### Memory -/

/-- System memory: the bytes that differ from what an unlisted address reads as, by rising address. -/
structure Memory where
  cells : List Host.Cell
deriving DecidableEq, Repr

/-- What a byte of memory that nothing has written reads as (DESIGN CHOICE; log entry 1). -/
def unlistedByte : Byte := 0#8

/-- The canonical form of a list of cells above address `lo`: addresses strictly rising, no unlisted value listed. -/
def cellsAbove : Nat → List Host.Cell → Bool
  | _, [] => true
  | lo, (a, b) :: rest => decide (lo ≤ a) && decide (b ≠ unlistedByte) && cellsAbove (a + 1) rest

/-- The canonical form, so that equal memories are equal data. -/
def Memory.wf (m : Memory) : Bool := cellsAbove 0 m.cells

/-! ### The lookup table, the job record and its cursor -/

/-- R78: the hidden lookup table. -/
structure Lut where
  valid : Bool
  tf : Curve
  gamma : F32
  /-- `lut.entry[0..255]`. -/
  entry : List F32
deriving DecidableEq, Repr

/-- One element access of `size` bytes (R108). -/
structure Access where
  addr : Nat
  size : Nat
deriving DecidableEq, Repr

/-- One element write still to be issued (R329). -/
structure Store where
  addr : Nat
  size : Nat
  value : Word
deriving DecidableEq, Repr

/-- How far a pixel has come: the source elements still to be read, by slot, with those read (the lane registers of
R80), or the destination elements still to be written. Every read comes before every write (R111). -/
inductive Stage where
  | reading (todo : List (Nat × Access)) (got : List (Nat × Word))
  | writing (left : List Store)
deriving DecidableEq, Repr

/-- A pixel of the cursor (R79): column, row and stage. -/
structure Pixel where
  x : Nat
  y : Nat
  stage : Stage
deriving DecidableEq, Repr

/-- Which engine step of R503 comes next. -/
inductive Phase where
  /-- The check step (R503 (a)). -/
  | check
  /-- The completion of a job that makes no access: an IMM job, or a job with no pixels (R522). -/
  | finish
  /-- The LUT fill (R503 (c)). -/
  | lut
  /-- The accesses (R503 (b)), then the completion. -/
  | traverse
deriving DecidableEq, Repr

/-- The hidden job record (R76) and the traversal cursor (R79): the pixels not yet written. -/
structure Job where
  args : Regs
  phase : Phase
  cursor : List Pixel
deriving DecidableEq, Repr

/-- The error codes (R510). -/
inductive ErrCode where
  | illegalCmd
  | param
  | alpha
  | align
  | stride
  | range
  | overlap
  | bus
deriving DecidableEq, Repr

/-! ### The host, and the choices the spec leaves open: the model's own fields -/

/-- What the host, or the platform, does to the block or to memory. -/
inductive HostAct where
  /-- A register-window write of `width` bytes at byte offset `off` (R41). -/
  | regWrite (off width : Nat) (value : Word)
  /-- A register-window read (R41). -/
  | regRead (off width : Nat)
  /-- A host store of one byte to system memory (R112). -/
  | memStore (addr : Nat) (value : Byte)
  /-- A host load of one byte of system memory (R112). -/
  | memLoad (addr : Nat)
  /-- The host cleans its cache over `len` bytes (R118). -/
  | cacheClean (addr len : Nat)
  /-- The host invalidates its cache over `len` bytes (R118). -/
  | cacheInvalidate (addr len : Nat)
  /-- The power-on reset input (R560). -/
  | powerOnReset
deriving DecidableEq, Repr

/-- A host action still to come, and how many engine steps come before it while a job runs (R503: the interleaving is
open, so it is data). -/
structure Input where
  after : Nat
  act : HostAct
deriving DecidableEq, Repr

/-- A destination element of an accepted job, with the addresses of the source bytes its value depends on (R112 (a)):
`deps` in the job's own sources, and `via` in the sources of earlier jobs that still own what they wrote there. -/
structure ElemPlan where
  dst : Access
  deps : List Nat
  via : List Nat
deriving DecidableEq, Repr

/-- The surroundings of the block: the host's coming actions, what its last read returned, the choices of access order
(R375), the count of free draws, and what R112 and R118 make "any value". -/
structure Env where
  inputs : List Input
  /-- What the host's last register read or memory load returned. -/
  readData : Word
  /-- For each access step, which unfinished pixel moves and which of its enabled accesses; (0, 0) when it runs out. -/
  tape : List (Nat × Nat)
  /-- Free bytes drawn so far (`Config.freeByte`). -/
  draws : Nat
  /-- A job owns its footprints: from an accepted START until the host has read STATUS with BUSY = 0 (R112). -/
  owning : Bool
  /-- The destination elements of the job accepted last, with what each depends on. -/
  plan : List ElemPlan
  /-- The destination footprints of that job, row by row (R106). -/
  dests : List Access
  /-- Byte by byte, the destination elements of the jobs that ended before it and still own their footprints, but for the
  bytes a later job has written since. -/
  past : List ElemPlan
  /-- The destination footprints of those jobs. -/
  pastDests : List Access
  /-- The bytes that become "any value" when the job accepted last ends (R112 (a), (b), R118). -/
  doomed : List Nat
  /-- Addresses the host has stored to and not cleaned, when `IO_COHERENT = false` (R118). -/
  dirty : List Nat
  /-- Destination bytes of accepted jobs that the host has not invalidated since, when `IO_COHERENT = false` (R118). -/
  stale : List Nat
deriving DecidableEq, Repr

/-! ### The state -/

/-- The machine. BUSY is not a field of its own: it is 1 exactly while a job record exists (R54, R76, R520, R522). ERR
and ERR_CODE are one field, since ERR_CODE reads 0 exactly when ERR does (R510). -/
structure State where
  /-- The implementation parameters (R7). No step changes them. -/
  cfg : Config
  /-- CTRL.IE_DONE (R48). -/
  ieDone : Bool
  /-- CTRL.IE_ERR (R48). -/
  ieErr : Bool
  /-- STATUS.DONE (R55). -/
  done : Bool
  /-- STATUS.ERR and STATUS.ERR_CODE (R56). -/
  err : Option ErrCode
  /-- ERR_INFO_LO (R70). -/
  errInfoLo : Word
  /-- ERR_INFO_HI (R70). -/
  errInfoHi : Word
  /-- The registers of R59 to R71 and the bank. -/
  regs : Regs
  /-- PIX_OUT0..3 (R72). -/
  pixOut : Quad
  /-- R78. -/
  lut : Lut
  /-- R76, R79. -/
  job : Option Job
  /-- System memory (R101). -/
  mem : Memory
  /-- The host and the open choices. -/
  env : Env
deriving DecidableEq, Repr

/-- Faults. The architected errors of R510 are states, not faults (R534). -/
inductive Fault where
  /-- A host store or load at an address outside the 2^ADDR_W bytes of R8: the address does not exist. Raised by a host
  action only, never by a command. Safe: the model stops where a platform may do anything. -/
  | hostAddressOutsideSpace (addr : Nat)
deriving DecidableEq, Repr

/-- Refusals. -/
inductive Refusal where
  /-- A command with no meaning yet; raised by exec's arm only. Safe. No arm raises it. -/
  | notModelled (mnemonic : String)
deriving DecidableEq, Repr

/-! ### Reset -/

def Quad.zero : Quad := ⟨0#32, 0#32, 0#32, 0#32⟩

/-- R74: the reset contents of the bank. -/
def Bank.reset : Bank where
  rgb2xyz := ⟨0x3ED32D7C, 0x3EB71437, 0x3E38C49C,
    0x3E59C6ED, 0x3F371437, 0x3D93D07D,
    0x3C9E6221, 0x3DF41AEF, 0x3F734721⟩
  xyz2rgb := ⟨0x404F639A, 0xBFC4C0F4, 0xBEFF3F82,
    0xBF7821D1, 0x3FF0211F, 0x3D2A36A0,
    0x3D63EA55, 0xBE50EC2A, 0x3F875328⟩
  okLms := ⟨0x3ED30EB1, 0x3F094D17, 0x3D52B909,
    0x3E58FD3B, 0x3F2E4253, 0x3DDBF2F0,
    0x3DB4D7EC, 0x3E903D74, 0x3F214649⟩
  okLab := ⟨0x3E578152, 0x3F4B2A89, 0xBB856ECE,
    0x3FFD2F0E, 0xC01B6E0E, 0x3EE6B438,
    0x3CD434B4, 0x3F4863BB, 0xBF4F0560⟩
  okLabInv := ⟨0x3F800000, 0x3ECAECC9, 0x3E5CFBA9,
    0x3F800000, 0xBDD8308C, 0xBD82C5FA,
    0x3F800000, 0xBDB7437B, 0xBFA54F66⟩
  okLmsInv := ⟨0x408274AB, 0xC053B18C, 0x3E6C8362,
    0xBFA25C2D, 0x40270644, 0xBEAEC16A,
    0xBB897F53, 0xBF34133E, 0x3FDA931E⟩
  jzLms := ⟨0x3ED45F51, 0x3F147AD1, 0x3C6FFE2A,
    0xBE4E58A3, 0x3F8F716D, 0x3D598039,
    0xBC87FE67, 0x3E8793DE, 0x3F2B2180⟩
  jzIab := ⟨0x3F000000, 0x3F000000, 0x00000000,
    0x40618937, 0xC0822279, 0x3F0AEEE9,
    0x3E4BDA94, 0x3F8C63E9, 0xBFA5DF3B⟩
  jzIabInv := ⟨0x3F800000, 0x3E0DEE7B, 0x3D6DC306,
    0x3F800000, 0xBE0DEE7B, 0xBD6DC306,
    0x3F800000, 0xBDC4A5BD, 0xBF4FD826⟩
  jzLmsInv := ⟨0x3FF64D0D, 0xBF809D09, 0x3D1A385C,
    0x3EB35CB8, 0x3F39FAAC, 0xBD85E845,
    0xBDBA5532, 0xBEA01DEC, 0x3FC2EA04⟩
  labLms := ⟨0x3EC786C2, 0x3F30624E, 0xBDA12D77,
    0xBE6B50B1, 0x3F9779A7, 0x3D3E0DED,
    0x00000000, 0x00000000, 0x3F800000⟩
  labLmsInv := ⟨0x3FF482C2, 0xBF8E5BF7, 0x3E4EC9A9,
    0x3EBDEC2A, 0x3F210995, 0x36AC3D62,
    0x00000000, 0x00000000, 0x3F800000⟩

/-- R44: the reset values. -/
def Regs.reset : Regs where
  cmd := 0#32
  width := 0#32
  height := 0#32
  srcLo := 0#32
  srcHi := 0#32
  srcStride := 0#32
  dstLo := 0#32
  dstHi := 0#32
  dstStride := 0#32
  src2Lo := 0#32
  src2Hi := 0#32
  src2Stride := 0#32
  planePitch := 0#32
  defaultAlpha := 0x000000FF
  gamma := 0x400CCCCD
  xyzScale := 0x42C80000
  jzLum := 0x42C80000
  whiteX := 0x42BE1810
  whiteY := 0x42C80000
  whiteZ := 0x42D9C419
  pixIn := Quad.zero
  bank := Bank.reset

/-- R78: the table is not valid; its other fields are unspecified and never observable (DESIGN CHOICE; log entry 7). -/
def Lut.reset : Lut where
  valid := false
  tf := .none
  gamma := 0#32
  entry := List.replicate 256 0#32

/-- No host action is pending, nothing is owned, and the access order is row-major (log entries 11 and 12). -/
def Env.reset : Env where
  inputs := []
  readData := 0#32
  tape := []
  draws := 0
  owning := false
  plan := []
  dests := []
  past := []
  pastDests := []
  doomed := []
  dirty := []
  stale := []

/-- The block after a reset (R560): every register at its reset value, no job, memory and surroundings as they are. -/
def State.blockReset (cfg : Config) (mem : Memory) (env : Env) : State where
  cfg := cfg
  ieDone := false
  ieErr := false
  done := false
  err := none
  errInfoLo := 0#32
  errInfoHi := 0#32
  regs := Regs.reset
  pixOut := Quad.zero
  lut := Lut.reset
  job := none
  mem := mem
  env := env

/-- The machine right after power-on reset, in the reference configuration, before any host action. -/
def State.reset : State := State.blockReset Config.reference ⟨[]⟩ Env.reset

end Sys2Proof.Machine
end

