-- ==== Sys2Proof/Machine/Float.lean ====
section
/-! DEFINITION. Binary32 arithmetic (R13, R20, R21, R22), exact on integers: a finite binary32 value is a sign and a
whole number of units of 2^-149, every operation is computed exactly and rounded once to nearest, ties to even. -/

namespace Sys2Proof.Machine

/-- The canonical quiet NaN (R20). -/
def canonNaN : F32 := 0x7FC00000#32
def posInf : F32 := 0x7F800000#32
def negInf : F32 := 0xFF800000#32
def posZero : F32 := 0x00000000#32
def negZero : F32 := 0x80000000#32
def fOne : F32 := 0x3F800000#32
def fTwo : F32 := 0x40000000#32
def fHalf : F32 := 0x3F000000#32

/-- The sign bit. -/
def fSign (x : F32) : Bool := decide (2 ^ 31 ≤ x.toNat)
/-- The 31 bits below the sign. -/
def fMag (x : F32) : Nat := x.toNat % 2 ^ 31
/-- The biased exponent field. -/
def fExpField (x : F32) : Nat := fMag x / 2 ^ 23
/-- The fraction field. -/
def fFrac (x : F32) : Nat := fMag x % 2 ^ 23

/-- R21: true for every NaN encoding. -/
def isNaN (x : F32) : Bool := decide (0x7F800000 < fMag x)
def isInf (x : F32) : Bool := decide (fMag x = 0x7F800000)
def isFinite (x : F32) : Bool := decide (fMag x < 0x7F800000)
/-- +0 or −0. -/
def isZero (x : F32) : Bool := decide (fMag x = 0)

/-- The magnitude of a finite value in units of 2^-149; subnormals are kept (R20). -/
def fUnits (x : F32) : Nat :=
  if fExpField x = 0 then fFrac x else (2 ^ 23 + fFrac x) * 2 ^ (fExpField x - 1)

/-- The value of a finite encoding, in units of 2^-149. -/
def fInt (x : F32) : Int := if fSign x then -(fUnits x : Int) else (fUnits x : Int)

/-- The encoding with sign `neg` and low 31 bits `mag`. -/
def fPack (neg : Bool) (mag : Nat) : F32 := BitVec.ofNat 32 (mag + if neg then 2 ^ 31 else 0)

/-- The magnitude encoding nearest to `n / d` units of 2^-149, ties to even (R20); past the largest finite value it is
the encoding of infinity. Encodings of one sign are in the order of their values, so a carry out of the fraction is
the next exponent. -/
def roundMag (n d : Nat) : Nat :=
  let k := (n / d).log2 - 23
  let dk := d * 2 ^ k
  let m := n / dk
  let r := n % dk
  let up := if dk < 2 * r then 1 else if 2 * r = dk then m % 2 else 0
  min (k * 2 ^ 23 + m + up) 0x7F800000

/-- The binary32 value nearest to ±`n / d` units of 2^-149. -/
def roundUnits (neg : Bool) (n d : Nat) : F32 := fPack neg (roundMag n d)

/-- R22: the binary32 value nearest to the rational ±`n / d`. -/
def fRatio (neg : Bool) (n d : Nat) : F32 := roundUnits neg (n * 2 ^ 149) d

/-- Exact negation (R265). -/
def fneg (x : F32) : F32 := x ^^^ 0x80000000#32
/-- R21: `abs` clears the sign bit. -/
def fabs (x : F32) : F32 := x &&& 0x7FFFFFFF#32

/-- R13, R20: addition. An exact zero sum is +0 unless both operands are −0 (or negative zeros by sign). -/
def fadd (a b : F32) : F32 :=
  if isNaN a || isNaN b then canonNaN
  else if isInf a then (if isInf b && (fSign a != fSign b) then canonNaN else a)
  else if isInf b then b
  else
    let s := fInt a + fInt b
    if s = 0 then (if fSign a && fSign b then negZero else posZero)
    else roundUnits (decide (s < 0)) s.natAbs 1

/-- R13: subtraction, `a + (−b)`. -/
def fsub (a b : F32) : F32 := fadd a (fneg b)

/-- R13, R20: multiplication. -/
def fmul (a b : F32) : F32 :=
  let neg := fSign a != fSign b
  if isNaN a || isNaN b then canonNaN
  else if isInf a || isInf b then
    (if isZero a || isZero b then canonNaN else fPack neg 0x7F800000)
  else roundUnits neg (fUnits a * fUnits b) (2 ^ 149)

/-- R13, R20: division. -/
def fdiv (a b : F32) : F32 :=
  let neg := fSign a != fSign b
  if isNaN a || isNaN b then canonNaN
  else if isInf a then (if isInf b then canonNaN else fPack neg 0x7F800000)
  else if isInf b then fPack neg 0
  else if isZero b then (if isZero a then canonNaN else fPack neg 0x7F800000)
  else roundUnits neg (fUnits a * 2 ^ 149) (fUnits b)

/-- R20: equality; false on a NaN, +0 equals −0. -/
def feq (a b : F32) : Bool :=
  !isNaN a && !isNaN b && (decide (a = b) || (isZero a && isZero b))

/-- The order key of a non-NaN value: encodings read as sign and magnitude. -/
def fKey (x : F32) : Int := if fSign x then -(fMag x : Int) else (fMag x : Int)

/-- R20: `a < b`; false on a NaN. -/
def flt (a b : F32) : Bool := !isNaN a && !isNaN b && decide (fKey a < fKey b)
/-- R20: `a ≤ b`; false on a NaN. -/
def fle (a b : F32) : Bool := !isNaN a && !isNaN b && decide (fKey a ≤ fKey b)

/-- R21: a NaN in `b` loses to `a`, and `a` is kept on equality. -/
def fmax (a b : F32) : F32 := if flt a b then b else a
/-- R21. -/
def fmin (a b : F32) : F32 := if flt b a then b else a

/-- R21: the largest integral value not greater than `x`. The sign of a zero result is the operand's (log entry 9; no
rule's result shows it). -/
def ffloor (x : F32) : F32 :=
  if isNaN x then canonNaN
  else if isInf x || isZero x then x
  else if fSign x then roundUnits true ((fUnits x + (2 ^ 149 - 1)) / 2 ^ 149 * 2 ^ 149) 1
  else roundUnits false (fUnits x / 2 ^ 149 * 2 ^ 149) 1

/-- The bits of the largest `r` with `r ^ e ≤ n`, found from bit `k - 1` down, above the bits already in `r`. -/
def rootBits (e n : Nat) : Nat → Nat → Nat
  | 0, r => r
  | k + 1, r => rootBits e n k (if (r + 2 ^ k) ^ e ≤ n then r + 2 ^ k else r)

/-- The integer part of the `e`-th root of `n`. -/
def natRoot (e n : Nat) : Nat := rootBits e n (n.log2 / e + 1) 0

/-- The nearest binary32 value to the `e`-th root of `n` halves-of-units (`n` is the `e`-th power of twice the number
of units): the root's integer part, with a sticky bit below it where the root is not whole. -/
def roundRoot (e n : Nat) : F32 :=
  let r := natRoot e n
  roundUnits false (2 * r + if r ^ e = n then 0 else 1) 4

/-- R21: the correctly rounded square root. -/
def fsqrt (x : F32) : F32 :=
  if isNaN x then canonNaN
  else if isZero x then x
  else if fSign x then canonNaN
  else if isInf x then posInf
  else roundRoot 2 (fUnits x * 2 ^ 151)

/-- The binary32 value of a natural number (R203: exact for every element value). -/
def fOfNat (n : Nat) : F32 := roundUnits false (n * 2 ^ 149) 1

/-- R513: finite and > 0: sign bit 0, not +0, exponent field not 0xFF. -/
def isPosFinite (x : F32) : Bool := !fSign x && !isZero x && isFinite x

end Sys2Proof.Machine
end

