-- ==== Sys2Proof/Machine/Elem.lean ====
section
/-! DEFINITION. The elementary-function units (R27, R28, R29). The reference record `ELEM_CR` is computed: cube root
and hypot exactly from integer roots, the others from enclosures on integers of 512 fraction bits that are far narrower
than the distance to a rounding boundary (log entry 8). Another record's values are free values within the accuracy the
record states (log entry 4). -/

namespace Sys2Proof.Machine

/-! ### Enclosures of real functions, scaled by 2^512 -/

/-- Fraction bits of the enclosures. -/
def fixP : Nat := 512
def fixOne : Nat := 2 ^ 512

/-- `p/k + p·q/(k+2) + p·q²/(k+4) + …` (`n` terms), with `q` scaled by `2 ^ s`. -/
def oddSeries (s : Nat) (q : Int) : Nat → Int → Nat → Int
  | 0, _, _ => 0
  | n + 1, p, k => p / (k : Int) + oddSeries s q n (p * q / (2 ^ s : Nat)) (k + 2)

/-- `t + t·q/(k(k+1)) + …` (`n` terms): the Taylor series of sine (`k = 2`) and cosine (`k = 1`), `q` the negated
square of the angle. -/
def alternatingSeries (q : Int) : Nat → Int → Nat → Int
  | 0, _, _ => 0
  | n + 1, t, k => t + alternatingSeries q n (t * q / (fixOne : Int) / ((k * (k + 1) : Nat) : Int)) (k + 2)

/-- `t + t·r/k + t·r²/(k(k+1)) + …` (`n` terms): the exponential series from its term `t`. -/
def expSeries (r : Nat) : Nat → Nat → Nat → Nat
  | 0, _, _ => 0
  | n + 1, t, k => t + expSeries r n (t * r / fixOne / k) (k + 1)

/-- `artanh z` for `0 ≤ z ≤ 1/3`. -/
def fixArtanh (z : Nat) : Int := oddSeries 512 ((z * z / fixOne : Nat) : Int) 170 (z : Int) 1

def fixLn2 : Int := 2 * fixArtanh (fixOne / 3)

/-- The natural logarithm of `u` units of 2^-149, `u > 0`: `u = f · 2 ^ (log2 u)` with `1 ≤ f < 2`. -/
def fixLn (u : Nat) : Int :=
  let l := u.log2
  let f := u * 2 ^ (512 - l)
  2 * fixArtanh ((f - fixOne) * fixOne / (f + fixOne)) + ((l : Int) - 149) * fixLn2

def fixLn10 : Int := fixLn (10 * 2 ^ 149)

/-- `arctan (1/m)` scaled by `2 ^ s`. -/
def invArctan (s m : Nat) : Int :=
  oddSeries s (-((2 ^ s / (m * m) : Nat) : Int)) (s / 4 + 4) ((2 ^ s / m : Nat) : Int) 1

/-- π scaled by `2 ^ s`, by Machin's formula. -/
def fixPi (s : Nat) : Int := 16 * invArctan s 5 - 4 * invArctan s 239

/-- `arctan (a/b)` for `0 < a ≤ b`. -/
def fixArctan (a b : Nat) : Int :=
  if 2 * a ≤ b then
    let z := a * fixOne / b
    oddSeries 512 (-((z * z / fixOne : Nat) : Int)) 260 (z : Int) 1
  else
    let z := (b - a) * fixOne / (b + a)
    fixPi 512 / 4 - oddSeries 512 (-((z * z / fixOne : Nat) : Int)) 260 (z : Int) 1

/-! ### Rounding an enclosure -/

/-- The nearest magnitude encoding to a real number known to lie within `lo / d .. hi / d` units. Where the two ends
round to different neighbours, the real number is taken to be the midpoint between them, and the even one is chosen
(log entry 8). -/
def roundWithin (lo hi d : Nat) : Nat :=
  let a := roundMag lo d
  let b := roundMag hi d
  if a = b then a else if a % 2 = 0 then a else b

/-- The nearest binary32 value to `v`, a real scaled by 2^512 and known to within 2^40. An exact 0, as of `ln` and `log10`
of 1, gives +0, and a value too small for binary32 the zero of its sign: R27 asks for the nearest value alone, and both
zeros are (PRESUMED, IEEE 754-2019 §9.2; log entry 36). -/
def roundFix (v : Int) : F32 :=
  fPack (decide (v < 0)) (roundWithin (v.natAbs - 2 ^ 40) (v.natAbs + 2 ^ 40) (2 ^ 363))

/-- The nearest binary32 value to `e ^ t`, `t` scaled by 2^512: overflow past `t = 90`, +0 below `t = -110` (log entry 36). -/
def expOf (t : Int) : F32 :=
  if 90 * (fixOne : Int) < t then posInf
  else if t < -(110 * (fixOne : Int)) then posZero
  else
    let k := t / fixLn2
    let m := expSeries (t - k * fixLn2).toNat 110 fixOne 1
    fPack false (roundWithin (m - 2 ^ 64) (m + 2 ^ 64) (2 ^ (363 - k).toNat))

/-- `fInt y · w`, with `w` scaled by 2^512: a product with a binary32 value. -/
def fixScale (y : F32) (w : Int) : Int := fInt y * w / (2 ^ 149 : Nat)

/-- Sine and cosine of `u` units, each scaled by 2^512: the angle is reduced by π/2 with 160 guard bits. -/
def fixSinCos (u : Nat) : Int × Int :=
  let halfPi := (fixPi 672).toNat / 2
  let x := u * 2 ^ 523
  let n := x / halfPi
  let r := x % halfPi / 2 ^ 160
  let q : Int := -((r * r / fixOne : Nat) : Int)
  let s := alternatingSeries q 60 (r : Int) 2
  let c := alternatingSeries q 60 (fixOne : Int) 1
  match n % 4 with
  | 0 => (s, c)
  | 1 => (c, -s)
  | 2 => (-s, -c)
  | _ => (-c, s)

/-! ### `ELEM_CR` on the arguments that no special case covers -/

def crCbrt (x : F32) : F32 := roundRoot 3 (fUnits x * 2 ^ 301)
def crHypot (x y : F32) : F32 := roundRoot 2 (4 * (fUnits x * fUnits x + fUnits y * fUnits y))
def crExp (x : F32) : F32 := expOf (fixScale x fixOne)
def crExp10 (x : F32) : F32 := expOf (fixScale x fixLn10)
def crPow (x y : F32) : F32 := expOf (fixScale y (fixLn (fUnits x)))
def crLn (x : F32) : F32 := roundFix (fixLn (fUnits x))
def crLog10 (x : F32) : F32 := roundFix (fixLn (fUnits x) * (fixOne : Int) / fixLn10)
def crSin (x : F32) : F32 :=
  let s := (fixSinCos (fUnits x)).1
  roundFix (if fSign x then -s else s)
def crCos (x : F32) : F32 := roundFix (fixSinCos (fUnits x)).2

/-- The angle of a point with both coordinates non-zero. -/
def crAtan2 (y x : F32) : F32 :=
  let a := fUnits y
  let b := fUnits x
  let t := if a ≤ b then fixArctan a b else fixPi 512 / 2 - fixArctan b a
  let t := if fSign x then fixPi 512 - t else t
  roundFix (if fSign y then -t else t)

/-! ### The units: the special cases of R28, which hold for every record, then the record -/

/-- Place of a value that is no NaN in the order of the encodings; both zeros have place 0. -/
def fPlace (x : F32) : Int := if fSign x then -(fMag x : Int) else (fMag x : Int)

/-- Neither value is a NaN, and at most `n` units in the last place lie between them. -/
def withinUlps (n : Nat) (x y : F32) : Bool :=
  !isNaN x && !isNaN y && decide ((fPlace x - fPlace y).natAbs ≤ n)

/-- R27: a record's value where the correctly rounded one is `cr`: that one, or another record's own value, which the
accuracy it states keeps near `cr` (log entry 4). -/
def recordValue (e : ElemChoice) (cr : F32) (own : Nat → F32) : F32 :=
  match e with
  | .correctlyRounded => cr
  | .other id n => if withinUlps n (own id) cr then own id else cr

/-- `pow` where neither R27 nor R28 gives its value: any value but a NaN, since no operand is one and D17 allows none
from a curve (R209; DESIGN CHOICE; log entry 3). -/
def openPow (x y : F32) : F32 := if isNaN (Config.powOpen x y) then posZero else Config.powOpen x y

/-- R28: odd; zeros and infinities give themselves. -/
def elemCbrt (e : ElemChoice) (x : F32) : F32 :=
  if isNaN x then canonNaN
  else if isZero x || isInf x then x
  else
    let r := recordValue e (crCbrt (fabs x)) fun id => Config.otherCbrt id (fabs x)
    if fSign x then fneg r else r

/-- R28. A NaN operand and a negative base give NaN; ±0 and +inf bases, and zero exponents, as listed there; what R28
does not list for an infinite operand is a free value (log entry 3). -/
def elemPow (e : ElemChoice) (x y : F32) : F32 :=
  if isNaN x || isNaN y then canonNaN
  else if isZero y then (if fSign x && !isZero x then canonNaN else fOne)
  else if isZero x then (if fSign y then posInf else posZero)
  else if fSign x then canonNaN
  else if isInf x then (if fSign y then openPow x y else posInf)
  else if isInf y then openPow x y
  else recordValue e (crPow x y) fun id => Config.otherPow id x y

/-- R28; `exp` of a NaN is NaN (R265's vectors). -/
def elemExp (e : ElemChoice) (x : F32) : F32 :=
  if isNaN x then canonNaN
  else if isInf x then (if fSign x then posZero else posInf)
  else recordValue e (crExp x) fun id => Config.otherExp id x

/-- R28, "exp10 likewise"; a NaN gives NaN as for `exp` (log entry 10). -/
def elemExp10 (e : ElemChoice) (x : F32) : F32 :=
  if isNaN x then canonNaN
  else if isInf x then (if fSign x then posZero else posInf)
  else recordValue e (crExp10 x) fun id => Config.otherExp10 id x

/-- R28; a NaN gives NaN (R266). -/
def elemLn (e : ElemChoice) (x : F32) : F32 :=
  if isNaN x then canonNaN
  else if isZero x then negInf
  else if fSign x then canonNaN
  else if isInf x then posInf
  else recordValue e (crLn x) fun id => Config.otherLn id x

/-- R28; a NaN gives NaN (R267). R28 does not list `log10(+inf)`: the model gives +inf, as R28 does for `ln` (PRESUMED,
IEEE 754-2019 §9.2; log entry 10). -/
def elemLog10 (e : ElemChoice) (x : F32) : F32 :=
  if isNaN x then canonNaN
  else if isZero x then negInf
  else if fSign x then canonNaN
  else if isInf x then posInf
  else recordValue e (crLog10 x) fun id => Config.otherLog10 id x

/-- `n·π/4` with a sign: the exact angles of the special cases of `atan2`. -/
def quarterPi (neg : Bool) (n : Nat) : F32 :=
  let t := (n : Int) * fixPi 512 / 4
  roundFix (if neg then -t else t)

/-- R28: `atan2` follows IEEE 754-2019 §9.2 (log entry 10 writes its list of special cases out). -/
def elemAtan2 (e : ElemChoice) (y x : F32) : F32 :=
  if isNaN y || isNaN x then canonNaN
  else if isZero y then (if fSign x then quarterPi (fSign y) 4 else fPack (fSign y) 0)
  else if isZero x then quarterPi (fSign y) 2
  else if isInf y then
    (if isInf x then quarterPi (fSign y) (if fSign x then 3 else 1) else quarterPi (fSign y) 2)
  else if isInf x then (if fSign x then quarterPi (fSign y) 4 else fPack (fSign y) 0)
  else recordValue e (crAtan2 y x) fun id => Config.otherAtan2 id y x

/-- R28: NaN for an infinity or a NaN. For ±0 the reference record gives the operand (log entry 10). -/
def elemSin (e : ElemChoice) (x : F32) : F32 :=
  if isNaN x || isInf x then canonNaN
  else recordValue e (if isZero x then x else crSin x) fun id => Config.otherSin id x

/-- R28: NaN for an infinity or a NaN. -/
def elemCos (e : ElemChoice) (x : F32) : F32 :=
  if isNaN x || isInf x then canonNaN
  else recordValue e (crCos x) fun id => Config.otherCos id x

/-- R28: an infinite operand wins over a NaN; two zeros give +0. -/
def elemHypot (e : ElemChoice) (x y : F32) : F32 :=
  if isInf x || isInf y then posInf
  else if isNaN x || isNaN y then canonNaN
  else if isZero x && isZero y then posZero
  else recordValue e (crHypot x y) fun id => Config.otherHypot id x y

end Sys2Proof.Machine
end

