-- ==== Sys2Proof/Machine/Transfer.lean ====
section
/-! DEFINITION. The transfer-function unit: element conversion (R203, R204, R205), the curves (R181 to R199) and the
contents of the lookup table (R200). -/

namespace Sys2Proof.Machine

/-! ### Element conversion -/

/-- R104, R143: the size of an element in bytes. -/
def elemSize : ElemType → Nat
  | .u8 => 1
  | .u16 => 2
  | .f32 => 4

/-- The largest value of an integer element type (R10, R143); not used for F32. -/
def elemMax : ElemType → Nat
  | .u8 => 255
  | .u16 => 65535
  | .f32 => 1

/-- The low `n` bytes of a word: the raw element in it (R65, R71, R402). -/
def lowBytes (n : Nat) (w : Word) : Word := BitVec.ofNat 32 (w.toNat % 2 ^ (8 * n))

/-- R203: a stored element as a binary32 sample. -/
def norm (t : ElemType) (w : Word) : F32 :=
  match t with
  | .f32 => w
  | t => fdiv (fOfNat w.toNat) (fOfNat (elemMax t))

/-- R204, the clamp: NaN and values below 0 give 0, values above `max` give `max`. -/
def clampSample (max : F32) (s : F32) : F32 :=
  if isNaN s then posZero else if flt s posZero then posZero else if flt max s then max else s

/-- R204: `⌊s + 1/2⌋` of a non-negative finite `s`, on the exact value. -/
def roundHalfUp (s : F32) : Nat := (fUnits s + 2 ^ 148) / 2 ^ 149

/-- R204: a binary32 sample as a stored element. -/
def quant (t : ElemType) (x : F32) : Word :=
  match t with
  | .f32 => x
  | t =>
    let max := fOfNat (elemMax t)
    BitVec.ofNat 32 (roundHalfUp (clampSample max (fmul x max)))

/-- R205: conversion between element types. -/
def conv (ts td : ElemType) (w : Word) : Word :=
  if ts = td then w else quant td (norm ts w)

/-! ### The curves -/

def cSrgbT : F32 := 0x3B4D2E1C
def cSrgbE : F32 := 0x3D25AEE6
def cSrgbS : F32 := 0x414EB852
def cSrgbA : F32 := 0x3F870A3D
def cSrgbB : F32 := 0x3D6147AE
def cSrgbG : F32 := 0x4019999A
def cSrgbIG : F32 := 0x3ED55555
def c709T : F32 := 0x3C9374BC
def c709E : F32 := 0x3DA5E354
def c709S : F32 := 0x40900000
def c709A : F32 := 0x3F8CAC08
def c709B : F32 := 0x3DCAC083
def c709P : F32 := 0x3EE66666
def c709IP : F32 := 0x400E38E4
def c428G : F32 := 0x40266666
def c428IG : F32 := 0x3EC4EC4F
def c428K : F32 := 0x3F6AA35E
def c428IK : F32 := 0x3F8BA741
def cLog100C : F32 := 0x3C23D70A
def cLog10sC : F32 := 0x3B4F3E37
def cPqM1 : F32 := 0x3E232000
def cPqIM1 : F32 := 0x40C8E06B
def cPqM2 : F32 := 0x429DB000
def cPqIM2 : F32 := 0x3C4FCDAC
def cPqC1 : F32 := 0x3F560000
def cPqC2 : F32 := 0x4196D000
def cPqC3 : F32 := 0x41958000
def cHlgA : F32 := 0x3E371FF0
def cHlgB : F32 := 0x3E91C020
def cHlgC : F32 := 0x3F0F564F
def cThird : F32 := 0x3EAAAAAB
def cTwelfth : F32 := 0x3DAAAAAB
/-- 2.5, exact (R183). -/
def cTwoHalf : F32 := 0x40200000
/-- 3, exact (R183). -/
def cThree : F32 := 0x40400000
/-- 12, exact (R183). -/
def cTwelve : F32 := 0x41400000

/-- R181: the domain clamp. −0 stays. -/
def dom (tf : Curve) (x : F32) : F32 :=
  if isNaN x || flt x posZero then posZero
  else if decide (tf = .pq) && flt fOne x then fOne
  else x

/-- R188. -/
def lin709 (e : ElemChoice) (x : F32) : F32 :=
  if flt x c709E then fdiv x c709S else elemPow e (fdiv (fadd x c709B) c709A) c709IP

/-- R189. -/
def gam709 (e : ElemChoice) (x : F32) : F32 :=
  if flt x c709T then fmul c709S x else fsub (fmul c709A (elemPow e x c709P)) c709B

/-- R180, R184: encoded sample to linear light; `g` is the POWER exponent. Every curve but NONE clamps its domain
first (R181). -/
def lin (e : ElemChoice) (g : F32) (tf : Curve) (s : F32) : F32 :=
  let x := dom tf s
  match tf with
  | .none => s
  | .srgb => if flt x cSrgbE then fdiv x cSrgbS else elemPow e (fdiv (fadd x cSrgbB) cSrgbA) cSrgbG
  | .rec709 => lin709 e x
  | .rec2020 => lin709 e x
  | .rec601 => lin709 e x
  | .smpte428 => fmul (elemPow e x c428G) c428IK
  | .log100 => if fle x posZero then posZero else elemExp10 e (fmul (fsub x fOne) fTwo)
  | .log100Sqrt10 => if fle x posZero then posZero else elemExp10 e (fmul (fsub x fOne) cTwoHalf)
  | .pq =>
    let q := elemPow e x cPqIM2
    let num := fmax (fsub q cPqC1) posZero
    let den := fsub cPqC2 (fmul cPqC3 q)
    elemPow e (fdiv num den) cPqIM1
  | .hlg =>
    if fle x fHalf then fmul (fmul x x) cThird
    else fmul (fadd (elemExp e (fdiv (fsub x cHlgC) cHlgA)) cHlgB) cTwelfth
  | .power => elemPow e x g

/-- R180, R184: linear light to encoded sample. -/
def gam (e : ElemChoice) (g : F32) (tf : Curve) (s : F32) : F32 :=
  let x := dom tf s
  match tf with
  | .none => s
  | .srgb => if flt x cSrgbT then fmul x cSrgbS else fsub (fmul cSrgbA (elemPow e x cSrgbIG)) cSrgbB
  | .rec709 => gam709 e x
  | .rec2020 => gam709 e x
  | .rec601 => gam709 e x
  | .smpte428 => elemPow e (fmul x c428K) c428IG
  | .log100 => if flt x cLog100C then posZero else fadd fOne (fdiv (elemLog10 e x) fTwo)
  | .log100Sqrt10 => if flt x cLog10sC then posZero else fadd fOne (fdiv (elemLog10 e x) cTwoHalf)
  | .pq =>
    let y := elemPow e x cPqM1
    elemPow e (fdiv (fadd cPqC1 (fmul cPqC2 y)) (fadd fOne (fmul cPqC3 y))) cPqM2
  | .hlg =>
    if fle x cTwelfth then fsqrt (fmul cThree x)
    else fadd (fmul cHlgA (elemLn e (fsub (fmul cTwelve x) cHlgB))) cHlgC
  | .power => elemPow e x (fdiv fOne g)

/-- R200: `lut.entry[i] = lin(tf, norm(U8, i))`. -/
def lutEntries (e : ElemChoice) (g : F32) (tf : Curve) : List F32 :=
  (List.range 256).map fun i => lin e g tf (norm .u8 (BitVec.ofNat 32 i))

end Sys2Proof.Machine
end

