-- ==== Sys2Proof/Machine/Kernels.lean ====
section
/-! DEFINITION. The colorimetric kernels (R240 to R268), each operation in the order its rule gives. A kernel reads the
latched registers `a` it names, and an elementary-function record `e`; it keeps no state and never fails. -/

namespace Sys2Proof.Machine

/-! ### Constants (R241) -/

def kLabEps : F32 := 0x3C1118C2
def kLabK : F32 := 0x40F92F1B
def kLabOff : F32 := 0x3E0D3DCB
def k116 : F32 := 0x42E80000
def k16 : F32 := 0x41800000
def k500 : F32 := 0x43FA0000
def k200 : F32 := 0x43480000
def kLuvEps : F32 := 0x3C111AA7
def kLuvKappa : F32 := 0x4461D2F7
/-- The exact integers of the Luv formulas (R241): 15, 3, 13, 4, 9, 12, 20. -/
def k15 : F32 := 0x41700000
def k3 : F32 := 0x40400000
def k13 : F32 := 0x41500000
def k4 : F32 := 0x40800000
def k9 : F32 := 0x41100000
def k12 : F32 := 0x41400000
def k20 : F32 := 0x41A00000
def kLuvLcut : F32 := 0x41000000
def kTwoPi : F32 := 0x40C90FDB
def kJzB : F32 := 0x3F933333
def kJzBm1 : F32 := 0x3E19999A
def kJzG : F32 := 0x3F28F5C3
def kJzGm1 : F32 := 0xBEAE147B
def kJzN : F32 := 0x3E232000
def kJzIn : F32 := 0x40C8E06B
def kJzP : F32 := 0x430608CD
def kJzIp : F32 := 0x3BF4797F
def kJzC1 : F32 := 0x3F560000
def kJzC2 : F32 := 0x4196D000
def kJzC3 : F32 := 0x41958000
def kJzPeak : F32 := 0x461C4000
def kJzD1 : F32 := 0x3EE147AE
def kJzD2 : F32 := 0x3F0F5C29
def kJzD0 : F32 := 0x2D8F5634
def kIsq3 : F32 := 0x3F13CD3A
def kIsq6 : F32 := 0x3ED105EC
def kIsq2 : F32 := 0x3F3504F3
def kSq33 : F32 := 0x3F13CD3A
def kSq66 : F32 := 0x3ED105EC
def kSq22 : F32 := 0x3F3504F3
def kSq63 : F32 := 0x3F5105EC
def k60 : F32 := 0x42700000
def k6 : F32 := 0x40C00000
def k360 : F32 := 0x43B40000
/-- The ends of the hue sectors of R262 beside 60 and 360: 120, 180, 240, 300. -/
def k120 : F32 := 0x42F00000
def k180 : F32 := 0x43340000
def k240 : F32 := 0x43700000
def k300 : F32 := 0x43960000

/-! ### The matrix product -/

/-- One row of `Mat` (R14): `((m0·a + m1·b) + m2·c)`, no fusion. -/
def matRow (m0 m1 m2 : F32) (v : Tri) : F32 :=
  fadd (fadd (fmul m0 v.c0) (fmul m1 v.c1)) (fmul m2 v.c2)

/-- `Mat(M, a, b, c)` (R14). -/
def matMul (m : Mat3) (v : Tri) : Tri :=
  ⟨matRow m.m00 m.m01 m.m02 v, matRow m.m10 m.m11 m.m12 v, matRow m.m20 m.m21 m.m22 v⟩

/-- A function of one sample on each of a triple's three. -/
def mapTri (f : F32 → F32) (v : Tri) : Tri := ⟨f v.c0, f v.c1, f v.c2⟩

def zeroTri : Tri := ⟨posZero, posZero, posZero⟩

/-! ### Linear RGB and XYZ -/

/-- R242. -/
def rgbToXyz (a : Regs) (v : Tri) : Tri :=
  mapTri (fun c => fmul c a.xyzScale) (matMul a.bank.rgb2xyz v)

/-- R243. -/
def xyzToRgb (a : Regs) (v : Tri) : Tri :=
  matMul a.bank.xyz2rgb (mapTri (fun c => fdiv c a.xyzScale) v)

/-! ### Lab -/

/-- R244. -/
def labF (e : ElemChoice) (t : F32) : F32 :=
  if flt kLabEps t then elemCbrt e t else fadd (fmul kLabK t) kLabOff

/-- R244: the branch is on the cubed value. -/
def labFInv (t : F32) : F32 :=
  let c := fmul (fmul t t) t
  if flt kLabEps c then c else fdiv (fsub t kLabOff) kLabK

/-- R245. -/
def xyzToLab (e : ElemChoice) (a : Regs) (v : Tri) : Tri :=
  let fx := labF e (fdiv v.c0 a.whiteX)
  let fy := labF e (fdiv v.c1 a.whiteY)
  let fz := labF e (fdiv v.c2 a.whiteZ)
  ⟨fsub (fmul k116 fy) k16, fmul k500 (fsub fx fy), fmul k200 (fsub fy fz)⟩

/-- R246. -/
def labToXyz (a : Regs) (v : Tri) : Tri :=
  let fy := fdiv (fadd v.c0 k16) k116
  let fx := fadd fy (fdiv v.c1 k500)
  let fz := fsub fy (fdiv v.c2 k200)
  ⟨fmul (labFInv fx) a.whiteX, fmul (labFInv fy) a.whiteY, fmul (labFInv fz) a.whiteZ⟩

/-! ### Luv and the polar form -/

/-- R247: the denominator of the white point's chromaticity. -/
def whiteDen (a : Regs) : F32 := fadd (fadd a.whiteX (fmul k15 a.whiteY)) (fmul k3 a.whiteZ)
/-- R247: `un`. -/
def whiteU (a : Regs) : F32 := fdiv (fmul k4 a.whiteX) (whiteDen a)
/-- R247: `vn`. -/
def whiteV (a : Regs) : F32 := fdiv (fmul k9 a.whiteY) (whiteDen a)

/-- R248. -/
def xyzToLuv (e : ElemChoice) (a : Regs) (v : Tri) : Tri :=
  let den := fadd (fadd v.c0 (fmul k15 v.c1)) (fmul k3 v.c2)
  let up := if feq den posZero then posZero else fdiv (fmul k4 v.c0) den
  let vp := if feq den posZero then posZero else fdiv (fmul k9 v.c1) den
  let yr := fdiv v.c1 a.whiteY
  let l := if flt kLuvEps yr then fsub (fmul k116 (elemCbrt e yr)) k16 else fmul kLuvKappa yr
  if feq l posZero then zeroTri
  else ⟨l, fmul (fmul k13 l) (fsub up (whiteU a)), fmul (fmul k13 l) (fsub vp (whiteV a))⟩

/-- R249: the guard is on the prime `v′`. -/
def luvToXyz (a : Regs) (v : Tri) : Tri :=
  let l := v.c0
  if feq l posZero then zeroTri
  else
    let l13 := fdiv fOne (fmul k13 l)
    let up := fadd (fmul v.c1 l13) (whiteU a)
    let vp := fadd (fmul v.c2 l13) (whiteV a)
    let t := fdiv (fadd l k16) k116
    let y := if flt kLuvLcut l then fmul a.whiteY (fmul (fmul t t) t) else fmul a.whiteY (fdiv l kLuvKappa)
    if feq vp posZero then ⟨posZero, y, posZero⟩
    else
      let d4 := fmul k4 vp
      ⟨fdiv (fmul y (fmul k9 up)) d4, y, fdiv (fmul y (fsub (fsub k12 (fmul k3 up)) (fmul k20 vp))) d4⟩

/-- R250. Its pseudocode passes the lightness on, and takes the chroma from `hypot`, which R28 makes +inf where one axis is
infinite and the other a NaN; its prose says that a NaN input gives a NaN chroma and hue. The model follows the pseudocode
and R28: a NaN lightness beside two axes that are no NaN leaves chroma and hue as they are, and an infinite axis beside a
NaN gives chroma +inf and hue NaN (DESIGN CHOICE; log entry 35). -/
def toPolar (e : ElemChoice) (v : Tri) : Tri :=
  let c := elemHypot e v.c1 v.c2
  if feq c posZero then ⟨v.c0, posZero, posZero⟩
  else
    let h := elemAtan2 e v.c2 v.c1
    let h := if flt h posZero then fadd h kTwoPi else h
    let h := if fle kTwoPi h then fsub h kTwoPi else h
    ⟨v.c0, c, h⟩

/-- R251. -/
def fromPolar (e : ElemChoice) (v : Tri) : Tri :=
  ⟨v.c0, fmul v.c1 (elemCos e v.c2), fmul v.c1 (elemSin e v.c2)⟩

/-! ### Oklab -/

/-- R252. -/
def linToOklab (e : ElemChoice) (a : Regs) (v : Tri) : Tri :=
  matMul a.bank.okLab (mapTri (elemCbrt e) (matMul a.bank.okLms v))

/-- R253. -/
def oklabToLin (a : Regs) (v : Tri) : Tri :=
  matMul a.bank.okLmsInv (mapTri (fun t => fmul (fmul t t) t) (matMul a.bank.okLabInv v))

/-! ### Jzazbz -/

/-- R254. -/
def pqFwd (e : ElemChoice) (t : F32) : F32 :=
  let x := elemPow e (fdiv (fmax t posZero) kJzPeak) kJzN
  elemPow e (fdiv (fadd kJzC1 (fmul kJzC2 x)) (fadd fOne (fmul kJzC3 x))) kJzP

/-- R255. -/
def pqInv (e : ElemChoice) (p : F32) : F32 :=
  let q := elemPow e (fmax p posZero) kJzIp
  let r := fmax (fdiv (fsub kJzC1 q) (fsub (fmul kJzC3 q) kJzC2)) posZero
  fmul kJzPeak (elemPow e r kJzIn)

/-- R256. -/
def jzScale (a : Regs) : F32 := fdiv a.jzLum a.xyzScale

/-- R257, with its black guard. -/
def xyzToJzazbz (e : ElemChoice) (a : Regs) (v : Tri) : Tri :=
  if feq v.c0 posZero && feq v.c1 posZero && feq v.c2 posZero then zeroTri
  else
    let s := mapTri (fun c => fmul c (jzScale a)) v
    let xp := fsub (fmul kJzB s.c0) (fmul kJzBm1 s.c2)
    let yp := fsub (fmul kJzG s.c1) (fmul kJzGm1 s.c0)
    let i := matMul a.bank.jzIab (mapTri (pqFwd e) (matMul a.bank.jzLms ⟨xp, yp, s.c2⟩))
    ⟨fsub (fdiv (fmul kJzD1 i.c0) (fsub fOne (fmul kJzD2 i.c0))) kJzD0, i.c1, i.c2⟩

/-- R258, with its black guard. -/
def jzazbzToXyz (e : ElemChoice) (a : Regs) (v : Tri) : Tri :=
  if feq v.c0 posZero && feq v.c1 posZero && feq v.c2 posZero then zeroTri
  else
    let t := fadd v.c0 kJzD0
    let iz := fdiv t (fadd kJzD1 (fmul kJzD2 t))
    let p := matMul a.bank.jzLmsInv (mapTri (pqInv e) (matMul a.bank.jzIabInv ⟨iz, v.c1, v.c2⟩))
    let xa := fdiv (fadd p.c0 (fmul kJzBm1 p.c2)) kJzB
    let ya := fdiv (fadd p.c1 (fmul kJzGm1 xa)) kJzG
    mapTri (fun c => fdiv c (jzScale a)) ⟨xa, ya, p.c2⟩

/-! ### HSV and HSL -/

/-- R259: `mx`, ties to R, then G, then B. -/
def maxTri (v : Tri) : F32 :=
  let m := if flt v.c0 v.c1 then v.c1 else v.c0
  if flt m v.c2 then v.c2 else m

/-- R259: `mn`. -/
def minTri (v : Tri) : F32 :=
  let m := if flt v.c1 v.c0 then v.c1 else v.c0
  if flt v.c2 m then v.c2 else m

/-- R259: the chroma. -/
def chroma (v : Tri) : F32 := fsub (maxTri v) (minTri v)

/-- R259: the hue in degrees. The pseudocode gives +0 where `c = 0`, also when a NaN lost both comparisons: one in `g` or in
`b` with the other two channels equal and finite, as in (0.5, NaN, 0.5), or one in both with a finite `r`, as in (0.5, NaN,
NaN). The rule's prose says that a NaN input gives a NaN hue. For finite channels whose `mx − mn` overflows to +inf the
pseudocode divides by +inf: the hue is a NaN where the difference it divides overflows too, as in (3e38, 3e38, −3e38), and
else 0, 120 or 240; the prose says that the hue of finite inputs lies in [0, 360). The model follows the pseudocode in both
cases (DESIGN CHOICE; log entry 31). -/
def hue (v : Tri) : F32 :=
  let mx := maxTri v
  let c := chroma v
  let t := fdiv (fsub v.c1 v.c2) c
  let h :=
    if feq c posZero then posZero
    else if feq mx v.c0 then fmul k60 (if flt t posZero then fadd t k6 else t)
    else if feq mx v.c1 then fmul k60 (fadd (fdiv (fsub v.c2 v.c0) c) fTwo)
    else fmul k60 (fadd (fdiv (fsub v.c0 v.c1) c) k4)
  if fle k360 h then fsub h k360 else h

/-- R260. -/
def rgbToHsv (v : Tri) : Tri :=
  let mx := maxTri v
  ⟨hue v, if feq mx posZero then posZero else fdiv (chroma v) mx, mx⟩

/-- R261. -/
def rgbToHsl (v : Tri) : Tri :=
  let c := chroma v
  let l := fmul (fadd (maxTri v) (minTri v)) fHalf
  let d := fsub fOne (fabs (fsub (fmul fTwo l) fOne))
  let s := if feq c posZero then posZero else if feq d posZero then posZero else fdiv c d
  ⟨hue v, s, l⟩

/-- R262: `hred`, the hue reduced modulo 360; NaN for a non-finite hue. -/
def hueReduce (h : F32) : F32 :=
  if isNaN h || isInf h then canonNaN
  else
    let r := fsub h (fmul k360 (ffloor (fdiv h k360)))
    let r := if flt r posZero then fadd r k360 else r
    if fle k360 r then posZero else r

/-- R262: `xh`. -/
def hueX (hr c : F32) : F32 :=
  if isNaN hr then posZero
  else
    let hp := fdiv hr k60
    let m2 := fsub hp (fmul fTwo (ffloor (fdiv hp fTwo)))
    fmul c (fsub fOne (fabs (fsub m2 fOne)))

/-- R262: the sector triple. For a large finite hue, the rounding of `360 × floor(h / 360)` can leave a reduced hue that
is still negative after the fix-ups, for which the table has no row: the first test takes it into the row [0, 60)
(DESIGN CHOICE; log entry 32). -/
def hueSector (hr c x : F32) : Tri :=
  if isNaN hr then zeroTri
  else if flt hr k60 then ⟨c, x, posZero⟩
  else if flt hr k120 then ⟨x, c, posZero⟩
  else if flt hr k180 then ⟨posZero, c, x⟩
  else if flt hr k240 then ⟨posZero, x, c⟩
  else if flt hr k300 then ⟨x, posZero, c⟩
  else ⟨c, posZero, x⟩

/-- R263. -/
def hsvToRgb (v : Tri) : Tri :=
  let hr := hueReduce v.c0
  let c := fmul v.c2 v.c1
  let m := fsub v.c2 c
  mapTri (fun t => fadd t m) (hueSector hr c (hueX hr c))

/-- R264. -/
def hslToRgb (v : Tri) : Tri :=
  let hr := hueReduce v.c0
  let c := fmul (fsub fOne (fabs (fsub (fmul fTwo v.c2) fOne))) v.c1
  let m := fsub v.c2 (fmul c fHalf)
  mapTri (fun t => fadd t m) (hueSector hr c (hueX hr c))

/-! ### Sigmoidal -/

/-- R265. -/
def sigFwd (e : ElemChoice) (x : F32) : F32 := fdiv fOne (fadd fOne (elemExp e (fneg x)))

/-- R266. -/
def sigInv (e : ElemChoice) (y : F32) : F32 :=
  let d := fsub fOne y
  if feq d posZero then posZero
  else
    let q := fdiv y d
    if fle q posZero then posZero else elemLn e q

/-! ### l-alpha-beta -/

/-- R267: the guarded logarithm. -/
def lg (e : ElemChoice) (t : F32) : F32 := if fle t posZero then posZero else elemLog10 e t

/-- R267. -/
def xyzToLalphabeta (e : ElemChoice) (a : Regs) (v : Tri) : Tri :=
  let g := mapTri (lg e) (matMul a.bank.labLms v)
  ⟨fmul kIsq3 (fadd (fadd g.c0 g.c1) g.c2),
   fmul kIsq6 (fsub (fadd g.c0 g.c1) (fmul fTwo g.c2)),
   fmul kIsq2 (fsub g.c0 g.c1)⟩

/-- R268: the guarded exponential. -/
def ex (e : ElemChoice) (t : F32) : F32 := if feq t posZero then posZero else elemExp10 e t

/-- R268. -/
def lalphabetaToXyz (e : ElemChoice) (a : Regs) (v : Tri) : Tri :=
  let t1 := fmul kSq33 v.c0
  let t2 := fmul kSq66 v.c1
  let t3 := fmul kSq22 v.c2
  matMul a.bank.labLmsInv (mapTri (ex e)
    ⟨fadd (fadd t1 t2) t3, fsub (fadd t1 t2) t3, fsub t1 (fmul kSq63 v.c1)⟩)

end Sys2Proof.Machine
end

