-- ==== Sys2Proof/Machine/Flags.lean ====
section
/-! DEFINITION. Status flags and the words the host reads them in: STATUS (R53), CTRL (R48), FEATURES (R47), ID (R46) and
the interrupt line (R523). CTP has no arithmetic flags (R81). -/

namespace Sys2Proof.Machine

/-- The codes of R510; 0 is no error. -/
def ErrCode.code : ErrCode → Nat
  | .illegalCmd => 1
  | .param => 2
  | .alpha => 3
  | .align => 4
  | .stride => 5
  | .range => 6
  | .overlap => 7
  | .bus => 8

/-- STATUS.BUSY (R54). -/
def State.busy (s : State) : Bool := s.job.isSome

/-- STATUS.ERR (R56). -/
def State.errBit (s : State) : Bool := s.err.isSome

/-- STATUS.ERR_CODE (R510). -/
def State.errCode (s : State) : Nat :=
  match s.err with
  | none => 0
  | some e => e.code

/-- R523: the level of the interrupt output. -/
def State.irq (s : State) : Bool := (s.done && s.ieDone) || (s.errBit && s.ieErr)

/-- STATUS.LUT_TF (R58). -/
def State.lutTf (s : State) : Nat := if s.lut.valid then s.lut.tf.code else 0

/-- STATUS (R53). -/
def State.statusWord (s : State) : Word :=
  BitVec.ofNat 32 (s.busy.toNat + s.done.toNat * 2 ^ 1 + s.errBit.toNat * 2 ^ 2 + s.irq.toNat * 2 ^ 3
    + s.errCode * 2 ^ 8 + s.lut.valid.toNat * 2 ^ 16 + s.lutTf * 2 ^ 20)

/-- CTRL (R48): the action bits read 0. -/
def State.ctrlWord (s : State) : Word := BitVec.ofNat 32 (s.ieDone.toNat * 2 ^ 8 + s.ieErr.toNat * 2 ^ 9)

/-- R47: LANES_LOG2. -/
def lanesLog2 : Lanes → Nat
  | .one => 0
  | .four => 2
  | .eight => 3

/-- FEATURES (R47). -/
def featuresWord (cfg : Config) : Word :=
  BitVec.ofNat 32 (1 + cfg.hasCompare.toNat * 2 ^ 1 + (decide (cfg.addrW = .w64)).toNat * 2 ^ 2
    + lanesLog2 cfg.lanes * 2 ^ 4 + min cfg.rowEngines 255 * 2 ^ 8)

/-- ID (R46). -/
def idWord : Word := 0x43545001#32

end Sys2Proof.Machine
end

