-- ==== Sys2Proof/Machine/Operands.lean ====
section
/-! DEFINITION. Operands: the resolved fields of a command, layouts and channels (R142, R322, R323), buffer arguments and
their addresses (R104, R105, R152), the alpha policy (R327, R328), and what a command's meaning is made of. -/

namespace Sys2Proof.Machine

/-! ### Resolved fields -/

/-- The fields of a command that holds no reserved code (R141). -/
structure Fields where
  sl : Layout
  st : ElemType
  dl : Layout
  dt : ElemType
  tf : Curve
  am : AlphaMode
  imm : Bool
  pos : Nat
  sp : EqSpace
deriving DecidableEq, Repr

/-- The fields, or `none` if one holds a reserved code (R512 (c)). -/
def resolve (c : Cmd) : Option Fields :=
  match c.srcType, c.dstType, c.tf, c.amode, c.space with
  | .elem st, .elem dt, .curve tf, .mode am, .space sp =>
    some ⟨c.srcLayout, st, c.dstLayout, dt, tf, am, c.imm, c.pos.val, sp⟩
  | _, _, _, _, _ => none

/-- All that a job's rules read: the parameters, the latched registers (R76) and the fields. -/
structure JobCtx where
  cfg : Config
  args : Regs
  f : Fields

/-! ### Layouts (R142) -/

def nch : Layout → Nat
  | .rgb => 3
  | .rgba => 4
  | .bgr => 3
  | .bgra => 4

def hasAlpha : Layout → Bool
  | .rgb => false
  | .rgba => true
  | .bgr => false
  | .bgra => true

/-- `r_off`; on the colorspace side, where only RGB and RGBA are legal, it is coordinate 0 (R158). -/
def rOff : Layout → Nat
  | .rgb => 0
  | .rgba => 0
  | .bgr => 2
  | .bgra => 2

/-- `g_off`. -/
def gOff : Layout → Nat := fun _ => 1

/-- `b_off`. -/
def bOff : Layout → Nat
  | .rgb => 2
  | .rgba => 2
  | .bgr => 0
  | .bgra => 0

/-- `a_off`, for a layout that has alpha. -/
def aOff : Layout → Nat := fun _ => 3

/-! ### Registers as operands -/

/-- R8: the address held in a `*_LO`/`*_HI` pair. -/
def pairAddr (w : AddrWidth) (lo hi : Word) : Nat :=
  match w with
  | .w32 => lo.toNat
  | .w64 => hi.toNat * 2 ^ 32 + lo.toNat

/-- R8: the size of the address space. -/
def spaceSize : AddrWidth → Nat
  | .w32 => 2 ^ 32
  | .w64 => 2 ^ 64

/-- R65: DEFAULT_ALPHA as a raw element. -/
def rawAlpha (t : ElemType) (a : Regs) : Word := lowBytes (elemSize t) a.defaultAlpha

/-- PIX_INk (R71) or PIX_OUTk (R72). -/
def Quad.get (q : Quad) : Nat → Word
  | 0 => q.p0
  | 1 => q.p1
  | 2 => q.p2
  | _ => q.p3

def Quad.set (q : Quad) (k : Nat) (v : Word) : Quad :=
  match k with
  | 0 => { q with p0 := v }
  | 1 => { q with p1 := v }
  | 2 => { q with p2 := v }
  | _ => { q with p3 := v }

/-! ### Buffer arguments -/

/-- A buffer argument (R106): its id (R515), base, stride, pixel size and access size. -/
structure BufArg where
  id : Nat
  base : Nat
  stride : Nat
  bpp : Nat
  unit : Nat
deriving DecidableEq, Repr

/-- S with pixel size `bpp` and access size `unit` (R152). -/
def bufS (x : JobCtx) (bpp unit : Nat) : BufArg :=
  ⟨1, pairAddr x.cfg.addrW x.args.srcLo x.args.srcHi, x.args.srcStride.toNat, bpp, unit⟩

/-- D. -/
def bufD (x : JobCtx) (bpp unit : Nat) : BufArg :=
  ⟨2, pairAddr x.cfg.addrW x.args.dstLo x.args.dstHi, x.args.dstStride.toNat, bpp, unit⟩

/-- S2. -/
def bufS2 (x : JobCtx) (bpp unit : Nat) : BufArg :=
  ⟨3, pairAddr x.cfg.addrW x.args.src2Lo x.args.src2Hi, x.args.src2Stride.toNat, bpp, unit⟩

/-- An interleaved S of the source fields: `bpp = nch × es` (R104). -/
def pixS (x : JobCtx) : BufArg := bufS x (nch x.f.sl * elemSize x.f.st) (elemSize x.f.st)

/-- An interleaved D of the destination fields. -/
def pixD (x : JobCtx) : BufArg := bufD x (nch x.f.dl * elemSize x.f.dt) (elemSize x.f.dt)

/-- Source plane `k` (R64, R152, R405). -/
def planeS (x : JobCtx) (k : Nat) : BufArg :=
  { bufS x (elemSize x.f.st) (elemSize x.f.st) with
    id := 0x10 + k
    base := pairAddr x.cfg.addrW x.args.srcLo x.args.srcHi + k * x.args.planePitch.toNat }

/-- Destination plane `k` (R64, R152, R404). -/
def planeD (x : JobCtx) (k : Nat) : BufArg :=
  { bufD x (elemSize x.f.st) (elemSize x.f.st) with
    id := 0x20 + k
    base := pairAddr x.cfg.addrW x.args.dstLo x.args.dstHi + k * x.args.planePitch.toNat }

/-! ### Elements -/

/-- One element of a pixel: its buffer, its memory channel there, and its PIX_IN or PIX_OUT register in an IMM job
(R322). -/
structure ElemRef where
  buf : BufArg
  chan : Nat
  pix : Nat
deriving DecidableEq, Repr

/-- R105: the element's address in pixel (x, y), on unbounded integers. -/
def ElemRef.addr (e : ElemRef) (x y : Nat) : Nat :=
  e.buf.base + y * e.buf.stride + x * e.buf.bpp + e.chan * e.buf.unit

/-- R108: the element's access in pixel (x, y). -/
def ElemRef.access (e : ElemRef) (x y : Nat) : Access := ⟨e.addr x y, e.buf.unit⟩

/-- The element lies in its buffer's pixel. Every element of a legal command does; the fields of a refused one may name a
channel its pixel has not. -/
def ElemRef.inPixel (e : ElemRef) : Bool := decide ((e.chan + 1) * e.buf.unit ≤ e.buf.bpp)

/-- R321: the element in an IMM job. -/
def ElemRef.imm (e : ElemRef) (a : Regs) : Word := lowBytes e.buf.unit (a.pixIn.get e.pix)

/-- Memory channel `k` of an interleaved pixel, which is also its register in an IMM job. -/
def chanRef (b : BufArg) (k : Nat) : ElemRef := ⟨b, k, k⟩

/-- The whole of a single-element pixel: a packed word or a plane's element. -/
def wholeRef (b : BufArg) : ElemRef := ⟨b, 0, 0⟩

/-! ### Alpha (R327, R328) -/

/-- The named channels read of source buffer `b`: r, g, b, and alpha under PASS (a dropped or overridden alpha is not
read). -/
def namedSrcs (b : BufArg) (x : JobCtx) : List ElemRef :=
  [chanRef b (rOff x.f.sl), chanRef b (gOff x.f.sl), chanRef b (bOff x.f.sl)]
    ++ if x.f.am = .pass then [chanRef b (aOff x.f.sl)] else []

/-- The named channels a "pol" command reads. -/
def polSrcs (x : JobCtx) : List ElemRef := namedSrcs (pixS x) x

/-- The named channels a command writes to an interleaved pixel: r, g, b, and alpha unless AMODE is NONE. -/
def polDsts (x : JobCtx) : List ElemRef :=
  [chanRef (pixD x) (rOff x.f.dl), chanRef (pixD x) (gOff x.f.dl), chanRef (pixD x) (bOff x.f.dl)]
    ++ if x.f.am = .none then [] else [chanRef (pixD x) (aOff x.f.dl)]

/-- R327: when a "pol" command's AMODE is legal. -/
def polAlpha (x : JobCtx) : Bool :=
  match x.f.am with
  | .none => !hasAlpha x.f.dl
  | .pass => hasAlpha x.f.sl && hasAlpha x.f.dl
  | .const => hasAlpha x.f.dl

/-- The alpha element an interleaved destination gets, `a` being the value under PASS: nothing under NONE. -/
def alphaOut (x : JobCtx) (a : Word) : List Word :=
  match x.f.am with
  | .none => []
  | .pass => [a]
  | .const => [rawAlpha x.f.dt x.args]

/-! ### A command's meaning -/

/-- The float registers a job may be checked for (R359, R513), in offset order. -/
inductive Param where
  | gamma
  | xyzScale
  | jzLum
  | whiteX
  | whiteY
  | whiteZ
deriving DecidableEq, Repr

/-- Element `k` of the result comes from the source element in slot `k` alone. -/
def ownSlot : JobCtx → Nat → Nat → Nat → Bool := fun _ k slot _ => decide (k = slot)

/-- A chain of kernels whose coordinate `k` depends on coordinate `slot` where `g k slot`, with an alpha element of its
own (R328). -/
def chainDep (g : Nat → Nat → Bool) : JobCtx → Nat → Nat → Nat → Bool := fun _ k slot _ =>
  if k < 3 then decide (slot < 3) && g k slot else decide (k = slot)

/-- Every coordinate depends on every coordinate. -/
def mixed : Nat → Nat → Bool := fun _ _ => true

/-- Each coordinate depends on its own alone. -/
def separate : Nat → Nat → Bool := fun k slot => decide (k = slot)

/-- What distinguishes one command from another; the job loop (R320), the checks and the endings are shared. -/
structure JobOp where
  /-- R151 but for the AMODE column; the fields hold no reserved code. -/
  legal : JobCtx → Bool
  /-- R151: the AMODE column. -/
  alpha : JobCtx → Bool
  /-- R359: the checked registers, beside GAMMA under TF = POWER. -/
  params : List Param
  /-- R202: the command linearizes its source. -/
  linearizes : Bool
  /-- R151: the source arguments, in the order of R515: S or the source planes, then S2. -/
  sources : JobCtx → List BufArg
  /-- R151: the destination arguments: D or the destination planes. -/
  dests : JobCtx → List BufArg
  /-- The elements a pixel's result depends on; an element's place in the list is its slot. -/
  srcElems : JobCtx → List ElemRef
  /-- The elements of a destination pixel. -/
  dstElems : JobCtx → List ElemRef
  /-- R112 (a): the result's element `k` depends on byte `byte` of the source element in `slot` (log entry 34). -/
  dep : JobCtx → (k slot byte : Nat) → Bool
  /-- The command's pixel body: from the source elements, by slot, the destination elements in the order of `dstElems`. -/
  body : JobCtx → (Nat → Word) → List Word

end Sys2Proof.Machine
end

