-- ==== Sys2Proof/Machine/Ops.lean ====
section
/-! DEFINITION. The named operations over memory and registers: memory in its canonical form (R101, R102), bus faults
(R117, R123), the register window (R41 to R44, R73), error entry (R520), completion (R522), acknowledgement (R524), the
lookup table (R51, R202), and what the ownership and coherence rules make "any value" (R112, R118). -/

namespace Sys2Proof.Machine

/-! ### Memory -/

def readCells (a : Nat) : List Host.Cell → Byte
  | [] => unlistedByte
  | (b, v) :: rest => if a = b then v else readCells a rest

/-- The cells with address `a` holding `v`; the canonical form is kept, so an unlisted value removes the cell. -/
def writeCells (a : Nat) (v : Byte) : List Host.Cell → List Host.Cell
  | [] => if v = unlistedByte then [] else [(a, v)]
  | (b, w) :: rest =>
    if a < b then (if v = unlistedByte then (b, w) :: rest else (a, v) :: (b, w) :: rest)
    else if a = b then (if v = unlistedByte then rest else (a, v) :: rest)
    else (b, w) :: writeCells a v rest

/-- The byte at an address. -/
def Memory.byte (m : Memory) (a : Nat) : Byte := readCells a m.cells

def Memory.setByte (m : Memory) (a : Nat) (v : Byte) : Memory := ⟨writeCells a v m.cells⟩

/-- R101, R103: the little-endian value of `n` bytes. -/
def Memory.readNat (m : Memory) (a : Nat) : Nat → Nat
  | 0 => 0
  | n + 1 => (m.byte a).toNat + 256 * m.readNat (a + 1) n

/-- `MemRead` (R101), zero-extended. -/
def Memory.read (m : Memory) (c : Access) : Word := BitVec.ofNat 32 (m.readNat c.addr c.size)

/-- R102, R103: `n` bytes of `v`, the lowest first. -/
def Memory.writeNat (m : Memory) (a : Nat) : Nat → Nat → Memory
  | 0, _ => m
  | n + 1, v => (m.setByte a (BitVec.ofNat 8 v)).writeNat (a + 1) n (v / 256)

/-- `MemWrite` (R102). -/
def Memory.write (m : Memory) (w : Store) : Memory := m.writeNat w.addr w.size w.value.toNat

/-- An access covers an address. -/
def Access.covers (c : Access) (a : Nat) : Bool := decide (c.addr ≤ a) && decide (a < c.addr + c.size)

/-- Two byte ranges share a byte. -/
def Access.meets (c d : Access) : Bool :=
  decide (max c.addr d.addr < min (c.addr + c.size) (d.addr + d.size))

/-- The addresses of an access. -/
def Access.bytes (c : Access) : List Nat := (List.range c.size).map (c.addr + ·)

/-- The addresses two accesses share. -/
def Access.common (c d : Access) : List Nat :=
  let lo := max c.addr d.addr
  (List.range (min (c.addr + c.size) (d.addr + d.size) - lo)).map (lo + ·)

def Store.access (w : Store) : Access := ⟨w.addr, w.size⟩

/-! ### Bus faults -/

/-- One clause of the oracle marks the access. -/
def clauseHits (q : FaultClause) (c : Access) (isWrite : Bool) : Bool :=
  decide (q.lo ≤ c.addr) && decide (c.addr ≤ q.hi) && decide (c.size = q.size)
    && (if isWrite then q.onWrite else q.onRead)

/-- R123: the access falls in CTP's own window, where the engine can know its place. -/
def inWindow (cfg : Config) (c : Access) : Bool :=
  match cfg.windowBase with
  | none => false
  | some b => c.meets ⟨b, 4096⟩

/-- R519: the access faults: the oracle marks it (R117), it falls in the window (R123), or it leaves the address space
(R8), which the RANGE check keeps every job from doing (log entry 14). -/
def busFault (cfg : Config) (c : Access) (isWrite : Bool) : Bool :=
  cfg.busFaults.any (fun q => clauseHits q c isWrite) || inWindow cfg c || decide (spaceSize cfg.addrW < c.addr + c.size)

/-! ### Free bytes (R112, R118) -/

/-- The byte becomes "any value". -/
def State.drawByte (s : State) (a : Nat) : State :=
  { s with mem := s.mem.setByte a (Config.freeByte s.env.draws), env := { s.env with draws := s.env.draws + 1 } }

/-- The listed bytes become "any value". -/
def State.drawBytes (s : State) : List Nat → State
  | [] => s
  | a :: rest => (s.drawByte a).drawBytes rest

/-- What races with the running job cost becomes "any value" (log entry 15). A job ends with this, however it ends; with
no race, it changes nothing. -/
def State.settled (s : State) : State := s.drawBytes s.env.doomed

/-- The destination footprints of every job that owns its footprints (R112). -/
def Env.owned (e : Env) : List Access := e.dests ++ e.pastDests

/-- The bytes of an element, each as an element of its own. -/
def ElemPlan.bytewise (p : ElemPlan) : List ElemPlan := p.dst.bytes.map fun a => { p with dst := ⟨a, 1⟩ }

/-- R112 (a): the element's value depends on the byte at `a`. -/
def ElemPlan.needs (p : ElemPlan) (a : Nat) : Bool := decide (a ∈ p.deps) || decide (a ∈ p.via)

/-- The element of a new job, where it reads what the jobs of `past` wrote and still own: its value depends on what those
bytes depend on (log entry 15). -/
def ElemPlan.chain (past : List ElemPlan) (p : ElemPlan) : ElemPlan :=
  { p with via := (past.filter fun q => p.deps.any q.dst.covers).flatMap fun q => q.deps ++ q.via }

/-! ### Registers (R44, R73) -/

def Mat3.get (m : Mat3) : Nat → F32
  | 0 => m.m00
  | 1 => m.m01
  | 2 => m.m02
  | 3 => m.m10
  | 4 => m.m11
  | 5 => m.m12
  | 6 => m.m20
  | 7 => m.m21
  | _ => m.m22

def Mat3.set (m : Mat3) (i : Nat) (v : F32) : Mat3 :=
  match i with
  | 0 => { m with m00 := v }
  | 1 => { m with m01 := v }
  | 2 => { m with m02 := v }
  | 3 => { m with m10 := v }
  | 4 => { m with m11 := v }
  | 5 => { m with m12 := v }
  | 6 => { m with m20 := v }
  | 7 => { m with m21 := v }
  | _ => { m with m22 := v }

def Bank.get (b : Bank) : Nat → Mat3
  | 0 => b.rgb2xyz
  | 1 => b.xyz2rgb
  | 2 => b.okLms
  | 3 => b.okLab
  | 4 => b.okLabInv
  | 5 => b.okLmsInv
  | 6 => b.jzLms
  | 7 => b.jzIab
  | 8 => b.jzIabInv
  | 9 => b.jzLmsInv
  | 10 => b.labLms
  | _ => b.labLmsInv

def Bank.set (b : Bank) (k : Nat) (m : Mat3) : Bank :=
  match k with
  | 0 => { b with rgb2xyz := m }
  | 1 => { b with xyz2rgb := m }
  | 2 => { b with okLms := m }
  | 3 => { b with okLab := m }
  | 4 => { b with okLabInv := m }
  | 5 => { b with okLmsInv := m }
  | 6 => { b with jzLms := m }
  | 7 => { b with jzIab := m }
  | 8 => { b with jzIabInv := m }
  | 9 => { b with jzLmsInv := m }
  | 10 => { b with labLms := m }
  | _ => { b with labLmsInv := m }

/-- R73: the slot and entry at an offset of the bank; `none` for the reserved offsets of a slot. -/
def bankEntry (off : Nat) : Option (Nat × Nat) :=
  if 0x100 ≤ off ∧ off < 0x400 ∧ off % 0x40 < 0x24 then some ((off - 0x100) / 0x40, off % 0x40 / 4) else none

/-- What a `*_HI` register reads or takes: R8, R44 make it RAZ/WI when `ADDR_W = 32`. -/
def hiWord (w : AddrWidth) (v : Word) : Word :=
  match w with
  | .w32 => 0#32
  | .w64 => v

/-- A host write of a latched register (R59 to R71, R73): any value is taken as written. Offsets that name none leave
the file as it is (R42, R43). -/
def Regs.write (r : Regs) (w : AddrWidth) (off : Nat) (v : Word) : Regs :=
  match off with
  | 0x010 => { r with cmd := v }
  | 0x014 => { r with width := v }
  | 0x018 => { r with height := v }
  | 0x020 => { r with srcLo := v }
  | 0x024 => { r with srcHi := hiWord w v }
  | 0x028 => { r with srcStride := v }
  | 0x030 => { r with dstLo := v }
  | 0x034 => { r with dstHi := hiWord w v }
  | 0x038 => { r with dstStride := v }
  | 0x040 => { r with src2Lo := v }
  | 0x044 => { r with src2Hi := hiWord w v }
  | 0x048 => { r with src2Stride := v }
  | 0x04C => { r with planePitch := v }
  | 0x050 => { r with defaultAlpha := v }
  | 0x054 => { r with gamma := v }
  | 0x058 => { r with xyzScale := v }
  | 0x05C => { r with jzLum := v }
  | 0x060 => { r with whiteX := v }
  | 0x064 => { r with whiteY := v }
  | 0x068 => { r with whiteZ := v }
  | 0x080 => { r with pixIn := r.pixIn.set 0 v }
  | 0x084 => { r with pixIn := r.pixIn.set 1 v }
  | 0x088 => { r with pixIn := r.pixIn.set 2 v }
  | 0x08C => { r with pixIn := r.pixIn.set 3 v }
  | _ =>
    match bankEntry off with
    | some (k, i) => { r with bank := r.bank.set k ((r.bank.get k).set i v) }
    | none => r

/-- What the host reads at an offset (R43, R44): a reserved offset reads 0 (R42). -/
def State.readReg (s : State) (off : Nat) : Word :=
  match off with
  | 0x000 => idWord
  | 0x004 => featuresWord s.cfg
  | 0x008 => s.ctrlWord
  | 0x00C => s.statusWord
  | 0x010 => s.regs.cmd
  | 0x014 => s.regs.width
  | 0x018 => s.regs.height
  | 0x020 => s.regs.srcLo
  | 0x024 => hiWord s.cfg.addrW s.regs.srcHi
  | 0x028 => s.regs.srcStride
  | 0x030 => s.regs.dstLo
  | 0x034 => hiWord s.cfg.addrW s.regs.dstHi
  | 0x038 => s.regs.dstStride
  | 0x040 => s.regs.src2Lo
  | 0x044 => hiWord s.cfg.addrW s.regs.src2Hi
  | 0x048 => s.regs.src2Stride
  | 0x04C => s.regs.planePitch
  | 0x050 => s.regs.defaultAlpha
  | 0x054 => s.regs.gamma
  | 0x058 => s.regs.xyzScale
  | 0x05C => s.regs.jzLum
  | 0x060 => s.regs.whiteX
  | 0x064 => s.regs.whiteY
  | 0x068 => s.regs.whiteZ
  | 0x070 => s.errInfoLo
  | 0x074 => s.errInfoHi
  | 0x080 => s.regs.pixIn.p0
  | 0x084 => s.regs.pixIn.p1
  | 0x088 => s.regs.pixIn.p2
  | 0x08C => s.regs.pixIn.p3
  | 0x090 => s.pixOut.p0
  | 0x094 => s.pixOut.p1
  | 0x098 => s.pixOut.p2
  | 0x09C => s.pixOut.p3
  | _ =>
    match bankEntry off with
    | some (k, i) => (s.regs.bank.get k).get i
    | none => 0#32

/-! ### The lookup table -/

/-- R51: LUT_INV, ignored while a job runs. It clears `lut.valid` alone: I25 leaves `lut.tf`, `lut.gamma` and `lut.entry`
any value, and the model keeps the old ones (DESIGN CHOICE, never observable; log entry 7). -/
def State.lutInvalidate (s : State) : State :=
  if s.busy then s else { s with lut := { s.lut with valid := false } }

/-- R202: the table does not serve the job. -/
def lutStale (l : Lut) (tf : Curve) (gamma : F32) : Bool :=
  !l.valid || decide (l.tf ≠ tf) || (decide (tf = .power) && decide (l.gamma ≠ gamma))

/-- R200, R202: the table filled for a curve. -/
def lutFor (e : ElemChoice) (tf : Curve) (gamma : F32) : Lut := ⟨true, tf, gamma, lutEntries e gamma tf⟩

/-! ### How a job ends -/

/-- Error entry (R520): the one way a job ends in ERR. It saves the code and the 64 bits of information (R527), and
discards the job record and the cursor; DONE, PIX_OUT, every argument register, the table and memory stay. -/
def State.errorEntry (s : State) (code : ErrCode) (lo hi : Word) : State :=
  { s with job := none, err := some code, errInfoLo := lo, errInfoHi := hi }

/-- A faulting access (R519): error entry with the address (R527), after the races are settled. -/
def State.busEntry (s : State) (a : Nat) : State :=
  s.settled.errorEntry .bus (BitVec.ofNat 32 a) (BitVec.ofNat 32 (a / 2 ^ 32))

/-- Completion (R522): the one way a job ends in DONE. -/
def State.complete (s : State) : State := { s with job := none, done := true }

/-- R524, R55, R56: acknowledgement, the counterpart of a return from an error or a completion. It restores nothing. -/
def State.acknowledge (s : State) (v : Word) : State :=
  let s := if v.getLsbD 1 then { s with done := false } else s
  if v.getLsbD 2 then { s with err := none, errInfoLo := 0#32, errInfoHi := 0#32 } else s

/-- R560, R561, R562: a reset of the block. A running job is cut between two engine steps; memory keeps what was written. -/
def State.resetBlock (s : State) : State :=
  let s := if s.busy then s.settled else s
  State.blockReset s.cfg s.mem s.env

end Sys2Proof.Machine
end

