-- ==== Sys2Proof/Machine/Checks.lean ====
section
/-! DEFINITION. The START checks (R511 to R518), in their order, with the information each error saves (R527). They read
only the latched job and the parameters. -/

namespace Sys2Proof.Machine

/-- A failed check: the code, ERR_INFO_LO and ERR_INFO_HI. -/
structure CheckErr where
  code : ErrCode
  lo : Word
  hi : Word
deriving DecidableEq, Repr

/-- An error whose information is `lo` alone. -/
def infoErr (code : ErrCode) (lo : Nat) : CheckErr := ⟨code, BitVec.ofNat 32 lo, 0#32⟩

/-! ### PARAM (R513) -/

/-- The register's offset (R44). -/
def Param.offset : Param → Nat
  | .gamma => 0x054
  | .xyzScale => 0x058
  | .jzLum => 0x05C
  | .whiteX => 0x060
  | .whiteY => 0x064
  | .whiteZ => 0x068

/-- Its latched value. -/
def Param.value (a : Regs) : Param → F32
  | .gamma => a.gamma
  | .xyzScale => a.xyzScale
  | .jzLum => a.jzLum
  | .whiteX => a.whiteX
  | .whiteY => a.whiteY
  | .whiteZ => a.whiteZ

/-- R359: the registers to check, in offset order. -/
def checkedParams (op : JobOp) (x : JobCtx) : List Param :=
  (if x.f.tf = .power then [.gamma] else []) ++ op.params

/-- The first register that is not finite and > 0. -/
def paramErr (a : Regs) : List Param → Option CheckErr
  | [] => none
  | p :: rest =>
    if isPosFinite (p.value a) then paramErr a rest
    else some ⟨.param, BitVec.ofNat 32 p.offset, p.value a⟩

/-! ### The address checks (R515 to R518), on the arguments in the argument order -/

/-- R515: base, then stride. -/
def alignErr : List BufArg → Option CheckErr
  | [] => none
  | b :: rest =>
    if b.base % b.unit ≠ 0 then some (infoErr .align b.id)
    else if b.stride % b.unit ≠ 0 then some (infoErr .align (b.id + 2 ^ 8))
    else alignErr rest

/-- R516. -/
def strideErr (w : Nat) : List BufArg → Option CheckErr
  | [] => none
  | b :: rest => if b.stride < w * b.bpp then some (infoErr .stride b.id) else strideErr w rest

/-- R106: one past the last byte of the span of a buffer with `w` columns and `h` rows, `h ≥ 1`. -/
def spanEnd (w h : Nat) (b : BufArg) : Nat := b.base + (h - 1) * b.stride + w * b.bpp

/-- R517. -/
def rangeErr (space w h : Nat) : List BufArg → Option CheckErr
  | [] => none
  | b :: rest => if space < spanEnd w h b then some (infoErr .range b.id) else rangeErr space w h rest

/-- R106: the bytes of row `y`. -/
def rowRange (w : Nat) (b : BufArg) (y : Nat) : Access := ⟨b.base + y * b.stride, w * b.bpp⟩

/-- R518: two footprints share a byte. Buffers whose spans are apart share none, so only the others' rows are compared. -/
def footprintsMeet (w h : Nat) (b c : BufArg) : Bool :=
  decide (b.base < spanEnd w h c) && decide (c.base < spanEnd w h b) &&
    (List.range h).any fun y => (List.range h).any fun z => (rowRange w b y).meets (rowRange w c z)

/-- R518: the in-place case, the one exception. -/
def inPlace (d s : BufArg) : Bool :=
  decide (d.id = 2) && decide (s.id = 1) && decide (d.base = s.base) && decide (d.stride = s.stride)
    && decide (d.bpp = s.bpp)

/-- The first argument before destination argument `d` that overlaps it. -/
def overlapWith (w h : Nat) (d : BufArg) : List BufArg → Option CheckErr
  | [] => none
  | b :: rest =>
    if footprintsMeet w h d b && !inPlace d b then some (infoErr .overlap (d.id + b.id * 2 ^ 8))
    else overlapWith w h d rest

/-- R518: every destination argument against every argument before it. -/
def overlapErr (w h : Nat) (before : List BufArg) : List BufArg → Option CheckErr
  | [] => none
  | d :: rest =>
    match overlapWith w h d before with
    | some e => some e
    | none => overlapErr w h (before ++ [d]) rest

/-- R511: the address checks run for a buffer job with pixels only. -/
def addressed (x : JobCtx) : Bool := !x.f.imm && decide (x.args.width ≠ 0#32) && decide (x.args.height ≠ 0#32)

/-- The arguments in the argument order of R515. -/
def arguments (op : JobOp) (x : JobCtx) : List BufArg := op.sources x ++ op.dests x

/-- R515 to R518, in code order. -/
def addressErr (op : JobOp) (x : JobCtx) : Option CheckErr :=
  let w := x.args.width.toNat
  let h := x.args.height.toNat
  match alignErr (arguments op x) with
  | some e => some e
  | none =>
    match strideErr w (arguments op x) with
    | some e => some e
    | none =>
      match rangeErr (spaceSize x.cfg.addrW) w h (arguments op x) with
      | some e => some e
      | none => overlapErr w h (op.sources x) (op.dests x)

/-! ### The check step -/

/-- ILLEGAL_CMD with its information (R512, R527). -/
def illegalErr (a : Regs) : CheckErr := ⟨.illegalCmd, a.cmd, 0#32⟩

/-- R511: the first check of a resolved command that fails, in code order. -/
def firstErr (op : JobOp) (x : JobCtx) : Option CheckErr :=
  if !op.legal x then some (illegalErr x.args)
  else
    match paramErr x.args (checkedParams op x) with
    | some e => some e
    | none =>
      if !op.alpha x then some ⟨.alpha, x.args.cmd, 0#32⟩
      else if addressed x then addressErr op x else none

end Sys2Proof.Machine
end

