-- ==== Sys2Proof/Machine/Engine.lean ====
section
/-! DEFINITION. The job engine (R320, R503): the check step, the lookup-table fill, the accesses of the traversal in the
order the tape chooses (R375), and the completion; and how far one run of a command's meaning takes it. -/

namespace Sys2Proof.Machine

/-- A failed check (R511): error entry with its code and information (R527), after the races are settled. -/
def State.raise (s : State) (e : CheckErr) : State := s.settled.errorEntry e.code e.lo e.hi

/-! ### Pixels -/

/-- The value of a slot among the elements read (R80). -/
def slotValue (got : List (Nat × Word)) (k : Nat) : Word :=
  match got with
  | [] => 0#32
  | (i, v) :: rest => if i = k then v else slotValue rest k

/-- The element reads of pixel (c, y), numbered by slot (R321). -/
def pixelReads (op : JobOp) (x : JobCtx) (c y : Nat) : List (Nat × Access) :=
  (op.srcElems x).zipIdx.map fun p => (p.2, p.1.access c y)

/-- The element writes of pixel (c, y) for source elements `v` (R329). -/
def pixelStores (op : JobOp) (x : JobCtx) (c y : Nat) (v : Nat → Word) : List Store :=
  List.zipWith (fun e w => ⟨e.addr c y, e.buf.unit, w⟩) (op.dstElems x) (op.body x v)

/-- R79: a pixel not yet written. -/
def newPixel (op : JobOp) (x : JobCtx) (c y : Nat) : Pixel := ⟨c, y, .reading (pixelReads op x c y) []⟩

/-- Something for every pixel of the job, row by row. -/
def rowMajor {α : Type} (x : JobCtx) (g : Nat → Nat → α) : List α :=
  (List.range x.args.height.toNat).flatMap fun y => (List.range x.args.width.toNat).map fun c => g c y

/-- R79: the cursor at the start of the traversal. -/
def cursorOf (op : JobOp) (x : JobCtx) : List Pixel := rowMajor x (newPixel op x)

/-- R112 (a): the addresses of the source bytes that element `k` of the result of pixel (c, y) depends on, within the source
footprints. -/
def depBytes (op : JobOp) (x : JobCtx) (c y k : Nat) : List Nat :=
  ((op.srcElems x).zipIdx.filter fun p => p.1.inPixel).flatMap fun p =>
    ((List.range p.1.buf.unit).filter fun b => op.dep x k p.2 b).map fun b => p.1.addr c y + b

/-- R112: the destination elements of pixel (c, y), within the destination footprints, with what each depends on. -/
def pixelPlan (op : JobOp) (x : JobCtx) (c y : Nat) : List ElemPlan :=
  ((op.dstElems x).zipIdx.filter fun p => p.1.inPixel).map fun p => ⟨p.1.access c y, depBytes op x c y p.2, []⟩

/-- R106: the footprints of buffers with the job's columns and rows, row by row. -/
def footprintRows (a : Regs) (l : List BufArg) : List Access :=
  l.flatMap fun b => (List.range a.height.toNat).map (rowRange a.width.toNat b)

/-! ### The check step (R503 (a)) -/

/-- R202: the job fills the table. -/
def needsFill (op : JobOp) (x : JobCtx) (l : Lut) : Bool :=
  op.linearizes && decide (x.f.st = .u8) && decide (x.f.tf ≠ .none) && lutStale l x.f.tf x.args.gamma

/-- R320: what follows a passed check. -/
def nextPhase (op : JobOp) (x : JobCtx) (l : Lut) : Phase :=
  if !addressed x then .finish else if needsFill op x l then .lut else .traverse

def checkStep (op : JobOp) (x : JobCtx) (j : Job) (s : State) : State :=
  match firstErr op x with
  | some e => s.raise e
  | none =>
    { s with job := some { j with
        phase := nextPhase op x s.lut
        cursor := if addressed x then cursorOf op x else [] } }

/-! ### The endings without an access -/

/-- R329, R72: the result registers of an IMM job, 0 where the destination has no channel. -/
def immResult (op : JobOp) (x : JobCtx) : Quad :=
  (List.zip (op.dstElems x)
    (op.body x fun k => ((op.srcElems x)[k]?.map fun e => e.imm x.args).getD 0#32)).foldl
      (fun q p => q.set p.1.pix p.2) Quad.zero

/-- R522 for an IMM job (R330) or a job with no pixels (R539). -/
def finishStep (op : JobOp) (x : JobCtx) (s : State) : State :=
  if x.f.imm then State.complete { s.settled with pixOut := immResult op x } else s.settled.complete

/-! ### The table fill (R503 (c)) -/

def lutStep (x : JobCtx) (j : Job) (s : State) : State :=
  { s with lut := lutFor s.cfg.elem x.f.tf x.args.gamma, job := some { j with phase := .traverse } }

/-! ### The accesses (R503 (b)) -/

/-- The choice `k` of a list's elements, with the others. -/
def pick {α : Type} (k : Nat) (l : List α) : Option (α × List α) :=
  match l[k % l.length]? with
  | none => none
  | some v => some (v, l.eraseIdx (k % l.length))

/-- An element write lands (R102). The bytes it writes no longer hold what an earlier job wrote there. -/
def State.storeElem (s : State) (w : Store) : State :=
  { s with
    mem := s.mem.write w
    env := { s.env with past := s.env.past.filter fun p => !w.access.covers p.dst.addr } }

/-- The stage after a read: the writes follow the last read (R111). -/
def afterRead (op : JobOp) (x : JobCtx) (px : Pixel) (todo : List (Nat × Access)) (got : List (Nat × Word)) : Stage :=
  match todo with
  | [] => .writing (pixelStores op x px.x px.y (slotValue got))
  | _ => .reading todo got

/-- The pixels left after a write of `px`. -/
def afterWrite (px : Pixel) (left : List Store) (others : List Pixel) : List Pixel :=
  match left with
  | [] => others
  | _ => { px with stage := .writing left } :: others

/-- One access of pixel `px`, the others being `others`: `a` chooses among its enabled accesses. -/
def pixelStep (op : JobOp) (x : JobCtx) (j : Job) (a : Nat) (px : Pixel) (others : List Pixel) (s : State) : State :=
  match px.stage with
  | .reading todo got =>
    match pick a todo with
    | none => { s with job := some { j with cursor := { px with stage := afterRead op x px [] got } :: others } }
    | some ((slot, c), rest) =>
      if busFault s.cfg c false then s.busEntry c.addr
      else
        { s with job := some { j with
            cursor := { px with stage := afterRead op x px rest ((slot, s.mem.read c) :: got) } :: others } }
  | .writing left =>
    match pick a left with
    | none => { s with job := some { j with cursor := others } }
    | some (w, rest) =>
      if busFault s.cfg w.access true then s.busEntry w.addr
      else { s.storeElem w with job := some { j with cursor := afterWrite px rest others } }

/-- One step of the traversal: an access, or the completion once every pixel is written (R522). -/
def accessStep (op : JobOp) (x : JobCtx) (j : Job) (s : State) : State :=
  let choice := s.env.tape.headD (0, 0)
  match pick choice.1 j.cursor with
  | none => s.settled.complete
  | some (px, others) =>
    pixelStep op x j choice.2 px others { s with env := { s.env with tape := s.env.tape.tail } }

/-! ### Engine steps -/

/-- One engine step (R503) of the running job `j`. A reserved code in a field is the check step's ILLEGAL_CMD. -/
def engineStep (op : JobOp) (c : Cmd) (j : Job) (s : State) : State :=
  match resolve c with
  | none => s.raise (illegalErr j.args)
  | some f =>
    let x : JobCtx := ⟨s.cfg, j.args, f⟩
    match j.phase with
    | .check => checkStep op x j s
    | .finish => finishStep op x s
    | .lut => lutStep x j s
    | .traverse => accessStep op x j s

/-- Engine steps while the job runs, at most `n`. -/
def engineRun (g : Job → State → State) : Nat → State → State
  | 0, s => s
  | n + 1, s =>
    match s.job with
    | none => s
    | some j => engineRun g n (g j s)

/-- The engine steps a pixel still takes, at most; `nd` is the number of destination elements. -/
def pixelSteps (nd : Nat) (px : Pixel) : Nat :=
  match px.stage with
  | .reading todo _ => todo.length + nd + 2
  | .writing left => left.length + 1

/-- R585 (a): the engine steps a job still takes, at most. -/
def stepsLeft (op : JobOp) (c : Cmd) (cfg : Config) (j : Job) : Nat :=
  match resolve c with
  | none => 1
  | some f =>
    let x : JobCtx := ⟨cfg, j.args, f⟩
    let nd := (op.dstElems x).length
    match j.phase with
    | .check => 3 + j.args.width.toNat * j.args.height.toNat * ((op.srcElems x).length + nd + 2)
    | .finish => 1
    | .lut => 2 + (j.cursor.map (pixelSteps nd)).sum
    | .traverse => 1 + (j.cursor.map (pixelSteps nd)).sum

/-- The engine steps that come now: all, or those before the host's next action (R503). -/
def State.slots (s : State) (all : Nat) : Nat :=
  match s.env.inputs with
  | [] => all
  | i :: _ => i.after

/-- The host's next action comes next. -/
def State.spend (s : State) : State :=
  match s.env.inputs with
  | [] => s
  | i :: rest => { s with env := { s.env with inputs := { i with after := 0 } :: rest } }

/-- A command's meaning: its engine steps up to the host's next action, or to the job's end (R320). -/
def runJob (op : JobOp) (c : Cmd) (s : State) : Host.Outcome State Fault Refusal :=
  match s.job with
  | none => .next s
  | some j => .next (engineRun (engineStep op c) (s.slots (stepsLeft op c s.cfg j)) s).spend

end Sys2Proof.Machine
end

