-- ==== Sys2Proof/Machine/RgbSide.lean ====
section
/-! DEFINITION. The RGB-side commands LINEARIZE, GAMMA and COPY (R208, R210, R211, R401): one curve per channel, by name. -/

namespace Sys2Proof.Machine

/-- R151: POS and SPACE must be 0. -/
def plainFields (x : JobCtx) : Bool := decide (x.f.pos = 0) && decide (x.f.sp = .standard)

/-- R208: the RGB-side template; `g` takes a stored source element to a stored destination element. -/
def rgbSideOp (g : JobCtx → Word → Word) : JobOp where
  legal x := plainFields x
  alpha := polAlpha
  params := []
  linearizes := false
  sources x := [pixS x]
  dests x := [pixD x]
  srcElems := polSrcs
  dstElems := polDsts
  dep := ownSlot
  body x v := [g x (v 0), g x (v 1), g x (v 2)] ++ alphaOut x (conv x.f.st x.f.dt (v 3))

/-- The element function of LINEARIZE. -/
def linearizeElem (x : JobCtx) (w : Word) : Word :=
  quant x.f.dt (lin x.cfg.elem x.args.gamma x.f.tf (norm x.f.st w))

/-- The element function of GAMMA. -/
def gammaElem (x : JobCtx) (w : Word) : Word :=
  quant x.f.dt (gam x.cfg.elem x.args.gamma x.f.tf (norm x.f.st w))

/-- R210: TF = NONE is illegal; the table is filled for U8 (R202). -/
def linearizeOp : JobOp :=
  { rgbSideOp linearizeElem with
    legal := fun x => decide (x.f.tf ≠ .none) && plainFields x
    linearizes := true }

/-- R211: TF = NONE is illegal. -/
def gammaOp : JobOp :=
  { rgbSideOp gammaElem with legal := fun x => decide (x.f.tf ≠ .none) && plainFields x }

/-- R401: TF must be 0; same-type elements are raw copies (R205). -/
def copyOp : JobOp :=
  { rgbSideOp (fun x w => conv x.f.st x.f.dt w) with
    legal := fun x => decide (x.f.tf = .none) && plainFields x }

/-- LINEARIZE (R210). -/
def execLinearize (c : Cmd) (s : State) : Host.Outcome State Fault Refusal := runJob linearizeOp c s

/-- GAMMA (R211). -/
def execGamma (c : Cmd) (s : State) : Host.Outcome State Fault Refusal := runJob gammaOp c s

/-- COPY (R401). -/
def execCopy (c : Cmd) (s : State) : Host.Outcome State Fault Refusal := runJob copyOp c s

end Sys2Proof.Machine
end

