-- ==== Sys2Proof/Machine/Forward.lean ====
section
/-! DEFINITION. The forward colorspace commands (R332, R334 to R356 even): RGB-side pixels to colorspace-side pixels. -/

namespace Sys2Proof.Machine

/-- R159: a colorspace side is RGB.F32 or RGBA.F32. -/
def csSide (l : Layout) (t : ElemType) : Bool := (decide (l = .rgb) || decide (l = .rgba)) && decide (t = .f32)

/-- R324: the decoded colour samples of an RGB-side pixel, read by name in slots 0 to 2. -/
def decodeRgb (x : JobCtx) (v : Nat → Word) : Tri :=
  mapTri (fun w => lin x.cfg.elem x.args.gamma x.f.tf (norm x.f.st w)) ⟨v 0, v 1, v 2⟩

/-- R326: the coordinates of a colorspace-side destination, raw. -/
def rawOut (t : Tri) : List Word := [quant .f32 t.c0, quant .f32 t.c1, quant .f32 t.c2]

/-- R332: the forward template; `k` is the kernel chain of R269, and `g` says which coordinates depend on which. -/
def forwardOp (params : List Param) (k : JobCtx → Tri → Tri) (g : Nat → Nat → Bool := mixed) : JobOp where
  legal x := csSide x.f.dl x.f.dt && plainFields x
  alpha := polAlpha
  params := params
  linearizes := true
  sources x := [pixS x]
  dests x := [pixD x]
  srcElems := polSrcs
  dstElems := polDsts
  dep := chainDep g
  body x v := rawOut (k x (decodeRgb x v)) ++ alphaOut x (conv x.f.st x.f.dt (v 3))

/-- R334, R269. -/
def rgbToXyzOp : JobOp := forwardOp [.xyzScale] fun x v => rgbToXyz x.args v

/-- RGB_TO_XYZ (R334). -/
def execRgbToXyz (c : Cmd) (s : State) : Host.Outcome State Fault Refusal := runJob rgbToXyzOp c s

/-- R336, R269. -/
def rgbToLabOp : JobOp := forwardOp [.xyzScale, .whiteX, .whiteY, .whiteZ] fun x v => xyzToLab x.cfg.elem x.args (rgbToXyz x.args v)

/-- RGB_TO_LAB (R336). -/
def execRgbToLab (c : Cmd) (s : State) : Host.Outcome State Fault Refusal := runJob rgbToLabOp c s

/-- R338, R269. -/
def rgbToLuvOp : JobOp := forwardOp [.xyzScale, .whiteX, .whiteY, .whiteZ] fun x v => xyzToLuv x.cfg.elem x.args (rgbToXyz x.args v)

/-- RGB_TO_LUV (R338). -/
def execRgbToLuv (c : Cmd) (s : State) : Host.Outcome State Fault Refusal := runJob rgbToLuvOp c s

/-- R340, R269. -/
def rgbToLchOp : JobOp := forwardOp [.xyzScale, .whiteX, .whiteY, .whiteZ] fun x v => toPolar x.cfg.elem (xyzToLuv x.cfg.elem x.args (rgbToXyz x.args v))

/-- RGB_TO_LCH (R340). -/
def execRgbToLch (c : Cmd) (s : State) : Host.Outcome State Fault Refusal := runJob rgbToLchOp c s

/-- R342, R269. -/
def rgbToOklabOp : JobOp := forwardOp [] fun x v => linToOklab x.cfg.elem x.args v

/-- RGB_TO_OKLAB (R342). -/
def execRgbToOklab (c : Cmd) (s : State) : Host.Outcome State Fault Refusal := runJob rgbToOklabOp c s

/-- R344, R269. -/
def rgbToOklchOp : JobOp := forwardOp [] fun x v => toPolar x.cfg.elem (linToOklab x.cfg.elem x.args v)

/-- RGB_TO_OKLCH (R344). -/
def execRgbToOklch (c : Cmd) (s : State) : Host.Outcome State Fault Refusal := runJob rgbToOklchOp c s

/-- R346, R269. -/
def rgbToJzazbzOp : JobOp := forwardOp [.xyzScale, .jzLum] fun x v => xyzToJzazbz x.cfg.elem x.args (rgbToXyz x.args v)

/-- RGB_TO_JZAZBZ (R346). -/
def execRgbToJzazbz (c : Cmd) (s : State) : Host.Outcome State Fault Refusal := runJob rgbToJzazbzOp c s

/-- R348, R269. -/
def rgbToJzczhzOp : JobOp := forwardOp [.xyzScale, .jzLum] fun x v => toPolar x.cfg.elem (xyzToJzazbz x.cfg.elem x.args (rgbToXyz x.args v))

/-- RGB_TO_JZCZHZ (R348). -/
def execRgbToJzczhz (c : Cmd) (s : State) : Host.Outcome State Fault Refusal := runJob rgbToJzczhzOp c s

/-- R350, R269. -/
def rgbToHsvOp : JobOp := forwardOp [] fun _ v => rgbToHsv v

/-- RGB_TO_HSV (R350). -/
def execRgbToHsv (c : Cmd) (s : State) : Host.Outcome State Fault Refusal := runJob rgbToHsvOp c s

/-- R352, R269. -/
def rgbToHslOp : JobOp := forwardOp [] fun _ v => rgbToHsl v

/-- RGB_TO_HSL (R352). -/
def execRgbToHsl (c : Cmd) (s : State) : Host.Outcome State Fault Refusal := runJob rgbToHslOp c s

/-- R354, R269. -/
def rgbToSigmoidOp : JobOp := forwardOp [] (fun x v => mapTri (sigFwd x.cfg.elem) v) separate

/-- RGB_TO_SIGMOID (R354). -/
def execRgbToSigmoid (c : Cmd) (s : State) : Host.Outcome State Fault Refusal := runJob rgbToSigmoidOp c s

/-- R356, R269. -/
def rgbToLalphabetaOp : JobOp := forwardOp [.xyzScale] fun x v => xyzToLalphabeta x.cfg.elem x.args (rgbToXyz x.args v)

/-- RGB_TO_LALPHABETA (R356). -/
def execRgbToLalphabeta (c : Cmd) (s : State) : Host.Outcome State Fault Refusal := runJob rgbToLalphabetaOp c s

end Sys2Proof.Machine
end

