-- ==== Sys2Proof/Machine/Inverse.lean ====
section
/-! DEFINITION. The inverse colorspace commands (R333, R335 to R357 odd): colorspace-side pixels to RGB-side pixels. -/

namespace Sys2Proof.Machine

/-- R326: the coordinates of a colorspace-side source, raw. -/
def rawIn (v : Nat → Word) : Tri := ⟨norm .f32 (v 0), norm .f32 (v 1), norm .f32 (v 2)⟩

/-- R325: the encoded colour elements of an RGB-side destination, written by name. -/
def encodeRgb (x : JobCtx) (t : Tri) : List Word :=
  let q := mapTri (fun l => quant x.f.dt (gam x.cfg.elem x.args.gamma x.f.tf l)) t
  [q.c0, q.c1, q.c2]

/-- R333: the inverse template; `k` is the kernel chain of R269, and `g` says which coordinates depend on which. -/
def inverseOp (params : List Param) (k : JobCtx → Tri → Tri) (g : Nat → Nat → Bool := mixed) : JobOp where
  legal x := csSide x.f.sl x.f.st && plainFields x
  alpha := polAlpha
  params := params
  linearizes := false
  sources x := [pixS x]
  dests x := [pixD x]
  srcElems := polSrcs
  dstElems := polDsts
  dep := chainDep g
  body x v := encodeRgb x (k x (rawIn v)) ++ alphaOut x (conv x.f.st x.f.dt (v 3))

/-- R335, R269. -/
def xyzToRgbOp : JobOp := inverseOp [.xyzScale] fun x v => xyzToRgb x.args v

/-- XYZ_TO_RGB (R335). -/
def execXyzToRgb (c : Cmd) (s : State) : Host.Outcome State Fault Refusal := runJob xyzToRgbOp c s

/-- R337, R269. -/
def labToRgbOp : JobOp := inverseOp [.xyzScale, .whiteX, .whiteY, .whiteZ] fun x v => xyzToRgb x.args (labToXyz x.args v)

/-- LAB_TO_RGB (R337). -/
def execLabToRgb (c : Cmd) (s : State) : Host.Outcome State Fault Refusal := runJob labToRgbOp c s

/-- R339, R269. -/
def luvToRgbOp : JobOp := inverseOp [.xyzScale, .whiteX, .whiteY, .whiteZ] fun x v => xyzToRgb x.args (luvToXyz x.args v)

/-- LUV_TO_RGB (R339). -/
def execLuvToRgb (c : Cmd) (s : State) : Host.Outcome State Fault Refusal := runJob luvToRgbOp c s

/-- R341, R269. -/
def lchToRgbOp : JobOp := inverseOp [.xyzScale, .whiteX, .whiteY, .whiteZ] fun x v => xyzToRgb x.args (luvToXyz x.args (fromPolar x.cfg.elem v))

/-- LCH_TO_RGB (R341). -/
def execLchToRgb (c : Cmd) (s : State) : Host.Outcome State Fault Refusal := runJob lchToRgbOp c s

/-- R343, R269. -/
def oklabToRgbOp : JobOp := inverseOp [] fun x v => oklabToLin x.args v

/-- OKLAB_TO_RGB (R343). -/
def execOklabToRgb (c : Cmd) (s : State) : Host.Outcome State Fault Refusal := runJob oklabToRgbOp c s

/-- R345, R269. -/
def oklchToRgbOp : JobOp := inverseOp [] fun x v => oklabToLin x.args (fromPolar x.cfg.elem v)

/-- OKLCH_TO_RGB (R345). -/
def execOklchToRgb (c : Cmd) (s : State) : Host.Outcome State Fault Refusal := runJob oklchToRgbOp c s

/-- R347, R269. -/
def jzazbzToRgbOp : JobOp := inverseOp [.xyzScale, .jzLum] fun x v => xyzToRgb x.args (jzazbzToXyz x.cfg.elem x.args v)

/-- JZAZBZ_TO_RGB (R347). -/
def execJzazbzToRgb (c : Cmd) (s : State) : Host.Outcome State Fault Refusal := runJob jzazbzToRgbOp c s

/-- R349, R269. -/
def jzczhzToRgbOp : JobOp := inverseOp [.xyzScale, .jzLum] fun x v => xyzToRgb x.args (jzazbzToXyz x.cfg.elem x.args (fromPolar x.cfg.elem v))

/-- JZCZHZ_TO_RGB (R349). -/
def execJzczhzToRgb (c : Cmd) (s : State) : Host.Outcome State Fault Refusal := runJob jzczhzToRgbOp c s

/-- R351, R269. -/
def hsvToRgbOp : JobOp := inverseOp [] fun _ v => hsvToRgb v

/-- HSV_TO_RGB (R351). -/
def execHsvToRgb (c : Cmd) (s : State) : Host.Outcome State Fault Refusal := runJob hsvToRgbOp c s

/-- R353, R269. -/
def hslToRgbOp : JobOp := inverseOp [] fun _ v => hslToRgb v

/-- HSL_TO_RGB (R353). -/
def execHslToRgb (c : Cmd) (s : State) : Host.Outcome State Fault Refusal := runJob hslToRgbOp c s

/-- R355, R269. -/
def sigmoidToRgbOp : JobOp := inverseOp [] (fun x v => mapTri (sigInv x.cfg.elem) v) separate

/-- SIGMOID_TO_RGB (R355). -/
def execSigmoidToRgb (c : Cmd) (s : State) : Host.Outcome State Fault Refusal := runJob sigmoidToRgbOp c s

/-- R357, R269. -/
def lalphabetaToRgbOp : JobOp := inverseOp [.xyzScale] fun x v => xyzToRgb x.args (lalphabetaToXyz x.cfg.elem x.args v)

/-- LALPHABETA_TO_RGB (R357). -/
def execLalphabetaToRgb (c : Cmd) (s : State) : Host.Outcome State Fault Refusal := runJob lalphabetaToRgbOp c s

end Sys2Proof.Machine
end

