-- ==== Sys2Proof/Machine/Compare.lean ====
section
/-! DEFINITION. Distances and equality (R450 to R454): two colorspace-side sources, a single-channel destination. -/

namespace Sys2Proof.Machine

/-- S of a compare command: `bpp` is `nch(SRC_LAYOUT) × 4` (R152). -/
def coordS (x : JobCtx) : BufArg := bufS x (nch x.f.sl * 4) 4

/-- S2 of a compare command: the layout and type of S (R450, R454). -/
def coordS2 (x : JobCtx) : BufArg := bufS2 x (nch x.f.sl * 4) 4

/-- R450: channels 0, 1 and 2 of both sources; a fourth channel is not used. -/
def compareSrcs (x : JobCtx) : List ElemRef :=
  (List.range 3).map (chanRef (coordS x)) ++ (List.range 3).map (chanRef (coordS2 x))

/-- The coordinates of S2, in slots 3 to 5. -/
def rawIn2 (v : Nat → Word) : Tri := rawIn fun k => v (k + 3)

/-- R450, R454: the compare template, with destination elements of type `dt`. An AMODE of 1 or 2 breaks the AMODE column
and is ALPHA (R151, R153, R514, ruling D30), although R450 lists AMODE ≠ 0 under ILLEGAL_CMD (DEDUCED; log entry 6). -/
def compareOp (dt : ElemType) (spaces : EqSpace → Bool) (k : JobCtx → Tri → Tri → Word) : JobOp where
  legal x :=
    x.cfg.hasCompare && csSide x.f.sl x.f.st && decide (x.f.dl = .rgb) && decide (x.f.dt = dt)
      && decide (x.f.tf = .none) && decide (x.f.pos = 0) && spaces x.f.sp && !x.f.imm
  alpha x := decide (x.f.am = .none)
  params := []
  linearizes := false
  sources x := [coordS x, coordS2 x]
  dests x := [bufD x (elemSize dt) (elemSize dt)]
  srcElems := compareSrcs
  dstElems x := [wholeRef (bufD x (elemSize dt) (elemSize dt))]
  dep _ _ _ _ := true
  body x v := [k x (rawIn v) (rawIn2 v)]

/-- The three differences (R451). -/
def subTri (a b : Tri) : Tri := ⟨fsub a.c0 b.c0, fsub a.c1 b.c1, fsub a.c2 b.c2⟩

/-- R451. -/
def euclid (a b : Tri) : F32 :=
  let d := subTri a b
  fsqrt (fadd (fadd (fmul d.c0 d.c0) (fmul d.c1 d.c1)) (fmul d.c2 d.c2))

/-- R452. -/
def taxicab (a b : Tri) : F32 :=
  let d := subTri a b
  fadd (fadd (fabs d.c0) (fabs d.c1)) (fabs d.c2)

/-- R453. -/
def equalIn (sp : EqSpace) (a b : Tri) : Bool :=
  match sp with
  | .standard => feq a.c0 b.c0 && feq a.c1 b.c1 && feq a.c2 b.c2
  | .luv =>
    (feq a.c0 posZero && feq b.c0 posZero) || (feq a.c0 b.c0 && feq a.c1 b.c1 && feq a.c2 b.c2)
  | .lch =>
    (feq a.c0 posZero && feq b.c0 posZero)
      || (feq a.c0 b.c0 && feq a.c1 b.c1 && (feq a.c1 posZero || feq a.c2 b.c2))

/-- R451. -/
def distEuclidOp : JobOp :=
  compareOp .f32 (fun sp => decide (sp = .standard)) fun _ a b => quant .f32 (euclid a b)

/-- R452. -/
def distTaxicabOp : JobOp :=
  compareOp .f32 (fun sp => decide (sp = .standard)) fun _ a b => quant .f32 (taxicab a b)

/-- R453. -/
def cmpEqOp : JobOp :=
  compareOp .u8 (fun _ => true) fun x a b => if equalIn x.f.sp a b then 1#32 else 0#32

/-- DIST_EUCLID (R451). -/
def execDistEuclid (c : Cmd) (s : State) : Host.Outcome State Fault Refusal := runJob distEuclidOp c s

/-- DIST_TAXICAB (R452). -/
def execDistTaxicab (c : Cmd) (s : State) : Host.Outcome State Fault Refusal := runJob distTaxicabOp c s

/-- CMP_EQ (R453). -/
def execCmpEq (c : Cmd) (s : State) : Host.Outcome State Fault Refusal := runJob cmpEqOp c s

end Sys2Proof.Machine
end

