-- ==== Sys2Proof/Machine/Control.lean ====
section
/-! DEFINITION. NOP (R331): the one command with no check, no field and no result. -/

namespace Sys2Proof.Machine

/-- NOP (R331): DONE by the completion step; no check, no memory, no table, no PIX_OUT. -/
def execNop (s : State) : Host.Outcome State Fault Refusal :=
  match s.job with
  | none => .next s
  | some _ => .next (engineRun (fun _ t => t.settled.complete) (s.slots 1) s).spend

end Sys2Proof.Machine
end

