-- ==== Sys2Proof/Machine/FloatKernel.lean ====
section
/-! DEFINITION. The float-kernel commands (R358, R360 to R373): colorspace-side pixels on both sides, no curve. -/

namespace Sys2Proof.Machine

/-- The lightness depends on itself alone, and the other two coordinates on both of them: the polar form and back (R250,
R251). -/
def polarDep : Nat → Nat → Bool := fun k slot => decide (k = 0) == decide (slot = 0)

/-- R245: L depends on Y, a on X and Y, b on Y and Z. -/
def labDep : Nat → Nat → Bool := fun k slot => decide (slot = 1) || (decide (k = 1) && decide (slot = 0))
  || (decide (k = 2) && decide (slot = 2))

/-- R246: Y depends on L, X on L and a, Z on L and b. -/
def labInvDep : Nat → Nat → Bool := fun k slot => decide (slot = 0) || (decide (k = 0) && decide (slot = 1))
  || (decide (k = 2) && decide (slot = 2))

/-- R248: L depends on Y, u and v on all three. -/
def luvDep : Nat → Nat → Bool := fun k slot => decide (k ≠ 0) || decide (slot = 1)

/-- R249: Y depends on L, X and Z on all three. -/
def luvInvDep : Nat → Nat → Bool := fun k slot => decide (k ≠ 1) || decide (slot = 0)

/-- R358: the float-kernel template; `g` says which coordinates depend on which. -/
def kernelOp (params : List Param) (k : JobCtx → Tri → Tri) (g : Nat → Nat → Bool := mixed) : JobOp where
  legal x := csSide x.f.sl x.f.st && csSide x.f.dl x.f.dt && decide (x.f.tf = .none) && plainFields x
  alpha := polAlpha
  params := params
  linearizes := false
  sources x := [pixS x]
  dests x := [pixD x]
  srcElems := polSrcs
  dstElems := polDsts
  dep := chainDep g
  body x v := rawOut (k x (rawIn v)) ++ alphaOut x (conv x.f.st x.f.dt (v 3))

/-- R360, R269. -/
def xyzToLabOp : JobOp := kernelOp [.whiteX, .whiteY, .whiteZ] (fun x v => xyzToLab x.cfg.elem x.args v) labDep

/-- XYZ_TO_LAB (R360). -/
def execXyzToLab (c : Cmd) (s : State) : Host.Outcome State Fault Refusal := runJob xyzToLabOp c s

/-- R361, R269. -/
def labToXyzOp : JobOp := kernelOp [.whiteX, .whiteY, .whiteZ] (fun x v => labToXyz x.args v) labInvDep

/-- LAB_TO_XYZ (R361). -/
def execLabToXyz (c : Cmd) (s : State) : Host.Outcome State Fault Refusal := runJob labToXyzOp c s

/-- R362, R269. -/
def xyzToLuvOp : JobOp := kernelOp [.whiteX, .whiteY, .whiteZ] (fun x v => xyzToLuv x.cfg.elem x.args v) luvDep

/-- XYZ_TO_LUV (R362). -/
def execXyzToLuv (c : Cmd) (s : State) : Host.Outcome State Fault Refusal := runJob xyzToLuvOp c s

/-- R363, R269. -/
def luvToXyzOp : JobOp := kernelOp [.whiteX, .whiteY, .whiteZ] (fun x v => luvToXyz x.args v) luvInvDep

/-- LUV_TO_XYZ (R363). -/
def execLuvToXyz (c : Cmd) (s : State) : Host.Outcome State Fault Refusal := runJob luvToXyzOp c s

/-- R364, R269. -/
def luvToLchOp : JobOp := kernelOp [] (fun x v => toPolar x.cfg.elem v) polarDep

/-- LUV_TO_LCH (R364). -/
def execLuvToLch (c : Cmd) (s : State) : Host.Outcome State Fault Refusal := runJob luvToLchOp c s

/-- R365, R269. -/
def lchToLuvOp : JobOp := kernelOp [] (fun x v => fromPolar x.cfg.elem v) polarDep

/-- LCH_TO_LUV (R365). -/
def execLchToLuv (c : Cmd) (s : State) : Host.Outcome State Fault Refusal := runJob lchToLuvOp c s

/-- R366, R269. -/
def oklabToOklchOp : JobOp := kernelOp [] (fun x v => toPolar x.cfg.elem v) polarDep

/-- OKLAB_TO_OKLCH (R366). -/
def execOklabToOklch (c : Cmd) (s : State) : Host.Outcome State Fault Refusal := runJob oklabToOklchOp c s

/-- R367, R269. -/
def oklchToOklabOp : JobOp := kernelOp [] (fun x v => fromPolar x.cfg.elem v) polarDep

/-- OKLCH_TO_OKLAB (R367). -/
def execOklchToOklab (c : Cmd) (s : State) : Host.Outcome State Fault Refusal := runJob oklchToOklabOp c s

/-- R368, R269. -/
def xyzToJzazbzOp : JobOp := kernelOp [.xyzScale, .jzLum] fun x v => xyzToJzazbz x.cfg.elem x.args v

/-- XYZ_TO_JZAZBZ (R368). -/
def execXyzToJzazbz (c : Cmd) (s : State) : Host.Outcome State Fault Refusal := runJob xyzToJzazbzOp c s

/-- R369, R269. -/
def jzazbzToXyzOp : JobOp := kernelOp [.xyzScale, .jzLum] fun x v => jzazbzToXyz x.cfg.elem x.args v

/-- JZAZBZ_TO_XYZ (R369). -/
def execJzazbzToXyz (c : Cmd) (s : State) : Host.Outcome State Fault Refusal := runJob jzazbzToXyzOp c s

/-- R370, R269. -/
def jzazbzToJzczhzOp : JobOp := kernelOp [] (fun x v => toPolar x.cfg.elem v) polarDep

/-- JZAZBZ_TO_JZCZHZ (R370). -/
def execJzazbzToJzczhz (c : Cmd) (s : State) : Host.Outcome State Fault Refusal := runJob jzazbzToJzczhzOp c s

/-- R371, R269. -/
def jzczhzToJzazbzOp : JobOp := kernelOp [] (fun x v => fromPolar x.cfg.elem v) polarDep

/-- JZCZHZ_TO_JZAZBZ (R371). -/
def execJzczhzToJzazbz (c : Cmd) (s : State) : Host.Outcome State Fault Refusal := runJob jzczhzToJzazbzOp c s

/-- R372, R269. -/
def xyzToLalphabetaOp : JobOp := kernelOp [] fun x v => xyzToLalphabeta x.cfg.elem x.args v

/-- XYZ_TO_LALPHABETA (R372). -/
def execXyzToLalphabeta (c : Cmd) (s : State) : Host.Outcome State Fault Refusal := runJob xyzToLalphabetaOp c s

/-- R373, R269. -/
def lalphabetaToXyzOp : JobOp := kernelOp [] fun x v => lalphabetaToXyz x.cfg.elem x.args v

/-- LALPHABETA_TO_XYZ (R373). -/
def execLalphabetaToXyz (c : Cmd) (s : State) : Host.Outcome State Fault Refusal := runJob lalphabetaToXyzOp c s

end Sys2Proof.Machine
end

