-- ==== Sys2Proof/Machine/LayoutOps.lean ====
section
/-! DEFINITION. Channel insertion and removal (R402, R403) and the planar conversions (R404, R405): raw copies of elements
by memory channel. -/

namespace Sys2Proof.Machine

/-- The layout commands take no curve and no SPACE (R151). -/
def layoutFields (x : JobCtx) : Bool := decide (x.f.tf = .none) && decide (x.f.sp = .standard)

/-- Both sides have the same element type (R151). -/
def sameType (x : JobCtx) : Bool := decide (x.f.dt = x.f.st)

/-- R151: "SRC_LAYOUT+1". -/
def withAlpha : Layout → Option Layout
  | .rgb => some .rgba
  | .rgba => none
  | .bgr => some .bgra
  | .bgra => none

/-- All the memory channels of an interleaved pixel. -/
def channels (b : BufArg) (l : Layout) : List ElemRef := (List.range (nch l)).map (chanRef b)

/-- S2 of EXPAND: one element per pixel (R152). -/
def insertedS2 (x : JobCtx) : BufArg := bufS2 x (elemSize x.f.st) (elemSize x.f.st)

/-- R402: destination channel `j` of EXPAND, `v` being the three source channels and `n` the new element. -/
def expandChan (pos : Nat) (v : Nat → Word) (n : Word) (j : Nat) : Word :=
  if j < pos then v j else if j = pos then n else v (j - 1)

/-- R402: where each destination channel of EXPAND comes from; the new element is in slot 3. -/
def expandDep : JobCtx → Nat → Nat → Nat → Bool := fun x k slot _ =>
  decide (slot = if k < x.f.pos then k else if k = x.f.pos then 3 else k - 1)

/-- R402. In an IMM job the new element under PASS is PIX_IN3, and S2 is no argument. -/
def expandOp : JobOp where
  legal x := decide (withAlpha x.f.sl = some x.f.dl) && sameType x && layoutFields x
  alpha x := decide (x.f.am ≠ .none)
  params := []
  linearizes := false
  sources x := [pixS x] ++ if x.f.am = .pass ∧ x.f.imm = false then [insertedS2 x] else []
  dests x := [pixD x]
  srcElems x := channels (pixS x) x.f.sl ++ if x.f.am = .pass then [⟨insertedS2 x, 0, 3⟩] else []
  dstElems x := channels (pixD x) x.f.dl
  dep := expandDep
  body x v :=
    (List.range (nch x.f.dl)).map
      (expandChan x.f.pos v (if x.f.am = .const then rawAlpha x.f.st x.args else v 3))

/-- R403: the source channel that becomes destination channel `j` of STRIP. -/
def stripChan (pos j : Nat) : Nat := if j < pos then j else j + 1

/-- R403. The removed element is not read (log entry 16). -/
def stripOp : JobOp where
  legal x := decide (withAlpha x.f.dl = some x.f.sl) && sameType x && layoutFields x
  alpha x := decide (x.f.am = .none)
  params := []
  linearizes := false
  sources x := [pixS x]
  dests x := [pixD x]
  srcElems x := (List.range (nch x.f.dl)).map fun j => chanRef (pixS x) (stripChan x.f.pos j)
  dstElems x := channels (pixD x) x.f.dl
  dep := ownSlot
  body x v := (List.range (nch x.f.dl)).map v

/-- R151: what DEINTERLEAVE and INTERLEAVE allow. -/
def planarLegal (x : JobCtx) : Bool :=
  decide (x.f.dl = x.f.sl) && sameType x && decide (x.f.tf = .none) && plainFields x && !x.f.imm

/-- R404. -/
def deinterleaveOp : JobOp where
  legal := planarLegal
  alpha x := decide (x.f.am = .none)
  params := []
  linearizes := false
  sources x := [pixS x]
  dests x := (List.range (nch x.f.sl)).map (planeD x)
  srcElems x := channels (pixS x) x.f.sl
  dstElems x := (List.range (nch x.f.sl)).map fun k => wholeRef (planeD x k)
  dep := ownSlot
  body x v := (List.range (nch x.f.sl)).map v

/-- R405. -/
def interleaveOp : JobOp where
  legal := planarLegal
  alpha x := decide (x.f.am = .none)
  params := []
  linearizes := false
  sources x := (List.range (nch x.f.sl)).map (planeS x)
  dests x := [pixD x]
  srcElems x := (List.range (nch x.f.sl)).map fun k => wholeRef (planeS x k)
  dstElems x := channels (pixD x) x.f.dl
  dep := ownSlot
  body x v := (List.range (nch x.f.sl)).map v

/-- EXPAND (R402). -/
def execExpand (c : Cmd) (s : State) : Host.Outcome State Fault Refusal := runJob expandOp c s

/-- STRIP (R403). -/
def execStrip (c : Cmd) (s : State) : Host.Outcome State Fault Refusal := runJob stripOp c s

/-- DEINTERLEAVE (R404). -/
def execDeinterleave (c : Cmd) (s : State) : Host.Outcome State Fault Refusal := runJob deinterleaveOp c s

/-- INTERLEAVE (R405). -/
def execInterleave (c : Cmd) (s : State) : Host.Outcome State Fault Refusal := runJob interleaveOp c s

end Sys2Proof.Machine
end

