-- ==== Sys2Proof/Machine/Packing.lean ====
section
/-! DEFINITION. Fixed-bit packing (R406 to R413). -/

namespace Sys2Proof.Machine

/-! ### The words (R406, R409) -/

def field (w : Word) (lo len : Nat) : Word := (w >>> lo) &&& BitVec.ofNat 32 (2 ^ len - 1)

def red5 (w : Word) : Word := field w 11 5
def green6 (w : Word) : Word := field w 5 6
def blue5 (w : Word) : Word := field w 0 5
def red10 (w : Word) : Word := field w 0 10
def green10 (w : Word) : Word := field w 10 10
def blue10 (w : Word) : Word := field w 20 10
def alpha2 (w : Word) : Word := field w 30 2

/-- R410: `f32(1/31)`. -/
def k31Inv : F32 := 0x3D042108
/-- R410: `f32(1/63)`. -/
def k63Inv : F32 := 0x3C820821
/-- R413: `f32(1/1023)`. -/
def k1023Inv : F32 := 0x3A802008
/-- R413: `f32(1/3)`. -/
def k3Inv : F32 := 0x3EAAAAAB

/-- R410, R413: one field, scaled by a reciprocal and quantized. -/
def scaled (t : ElemType) (k : F32) (w : Word) : Word := quant t (fmul (fOfNat w.toNat) k)

/-- R407: the 565 word of three U8 samples. -/
def pack565Word (r g b : Word) : Word := ((r >>> 3) <<< 11) ||| ((g >>> 2) <<< 5) ||| (b >>> 3)

/-- R411: a colour sample's ten bits. -/
def tenBits (t : ElemType) (w : Word) : Word :=
  match t with
  | .u8 => w <<< 2
  | _ => w >>> 6

/-- R411: an alpha sample's two bits. -/
def twoBits (t : ElemType) (w : Word) : Word :=
  match t with
  | .u8 => w >>> 6
  | _ => w >>> 14

/-- R411: the 1010102 word of four samples. -/
def pack1010102Word (t : ElemType) (r g b a : Word) : Word :=
  tenBits t r ||| (tenBits t g <<< 10) ||| (tenBits t b <<< 20) ||| (twoBits t a <<< 30)

/-- R408: a shifted field of `n` bits: into a U8 or a U16 element. -/
def shift565 (t : ElemType) (n : Nat) (w : Word) : Word :=
  match t with
  | .u8 => w <<< (8 - n)
  | _ => w <<< (16 - n)

/-- R412: a shifted ten-bit field. -/
def shift10 (t : ElemType) (w : Word) : Word :=
  match t with
  | .u8 => w >>> 2
  | _ => w <<< 6

/-- R412: the shifted alpha field. -/
def shift2 (t : ElemType) (w : Word) : Word :=
  match t with
  | .u8 => w <<< 6
  | _ => w <<< 14

/-- Byte `byte` of a word holds part of bits `hi` to `lo`. -/
def inField (lo hi byte : Nat) : Bool := decide (lo < 8 * (byte + 1)) && decide (8 * byte ≤ hi)

/-! ### The commands -/

/-- R151: a field pair that must be 0: layout RGB, type U8. -/
def zeroSide (l : Layout) (t : ElemType) : Bool := decide (l = .rgb) && decide (t = .u8)

def packFields (x : JobCtx) : Bool := decide (x.f.tf = .none) && plainFields x

/-- S of PACK565: `bpp` is `nch(SRC_LAYOUT)` (R152), so that each access is one byte (R104). -/
def bytesS (x : JobCtx) : BufArg := bufS x (nch x.f.sl) 1

/-- R407. -/
def pack565Op : JobOp where
  legal x := decide (x.f.st = .u8) && zeroSide x.f.dl x.f.dt && packFields x
  alpha x := decide (x.f.am = .none)
  params := []
  linearizes := false
  sources x := [bytesS x]
  dests x := [bufD x 2 2]
  srcElems x := namedSrcs (bytesS x) x
  dstElems x := [wholeRef (bufD x 2 2)]
  dep _ _ slot _ := decide (slot < 3)
  body _ v := [pack565Word (v 0) (v 1) (v 2)]

/-- R408, R410: the 565 unpack template. -/
def unpack565Op (types : ElemType → Bool) (colours : ElemType → Word → List Word) : JobOp where
  legal x := zeroSide x.f.sl x.f.st && types x.f.dt && packFields x
  alpha x := decide (x.f.am = if hasAlpha x.f.dl then .const else .none)
  params := []
  linearizes := false
  sources x := [bufS x 2 2]
  dests x := [pixD x]
  srcElems x := [wholeRef (bufS x 2 2)]
  dstElems := polDsts
  dep _ k slot byte := decide (slot = 0) && match k with
    | 0 => inField 11 15 byte
    | 1 => inField 5 10 byte
    | 2 => inField 0 4 byte
    | _ => false
  body x v := colours x.f.dt (v 0) ++ alphaOut x 0#32

/-- R408. -/
def unpack565ShiftedOp : JobOp :=
  unpack565Op (fun t => decide (t ≠ .f32))
    fun t w => [shift565 t 5 (red5 w), shift565 t 6 (green6 w), shift565 t 5 (blue5 w)]

/-- R410. -/
def unpack565ScaledOp : JobOp :=
  unpack565Op (fun _ => true)
    fun t w => [scaled t k31Inv (red5 w), scaled t k63Inv (green6 w), scaled t k31Inv (blue5 w)]

/-- R411. Under CONST the alpha element is a raw element of the source type. Of a U16 alpha element, only the high byte
reaches the word. -/
def pack1010102Op : JobOp where
  legal x := decide (x.f.st ≠ .f32) && zeroSide x.f.dl x.f.dt && packFields x
  alpha x := decide (x.f.am = .const) || (decide (x.f.am = .pass) && hasAlpha x.f.sl)
  params := []
  linearizes := false
  sources x := [pixS x]
  dests x := [bufD x 4 4]
  srcElems := polSrcs
  dstElems x := [wholeRef (bufD x 4 4)]
  dep x _ slot byte := decide (slot < 3) || decide (x.f.st = .u8) || decide (1 ≤ byte)
  body x v :=
    [pack1010102Word x.f.st (v 0) (v 1) (v 2) (if x.f.am = .const then rawAlpha x.f.st x.args else v 3)]

/-- R412, R413: the 1010102 unpack template. -/
def unpack1010102Op (types : ElemType → Bool) (colour alpha : ElemType → Word → Word) : JobOp where
  legal x := zeroSide x.f.sl x.f.st && types x.f.dt && packFields x
  alpha x := decide (x.f.am = .none) != hasAlpha x.f.dl
  params := []
  linearizes := false
  sources x := [bufS x 4 4]
  dests x := [pixD x]
  srcElems x := [wholeRef (bufS x 4 4)]
  dstElems := polDsts
  dep x k slot byte := decide (slot = 0) && match k with
    | 0 => inField 0 9 byte
    | 1 => inField 10 19 byte
    | 2 => inField 20 29 byte
    | _ => decide (x.f.am = .pass) && inField 30 31 byte
  body x v :=
    [colour x.f.dt (red10 (v 0)), colour x.f.dt (green10 (v 0)), colour x.f.dt (blue10 (v 0))]
      ++ alphaOut x (alpha x.f.dt (alpha2 (v 0)))

/-- R412. -/
def unpack1010102ShiftedOp : JobOp := unpack1010102Op (fun t => decide (t ≠ .f32)) shift10 shift2

/-- R413. -/
def unpack1010102ScaledOp : JobOp :=
  unpack1010102Op (fun _ => true) (fun t w => scaled t k1023Inv w) fun t w => scaled t k3Inv w

/-- PACK565 (R407). -/
def execPack565 (c : Cmd) (s : State) : Host.Outcome State Fault Refusal := runJob pack565Op c s

/-- UNPACK565_SHIFTED (R408). -/
def execUnpack565Shifted (c : Cmd) (s : State) : Host.Outcome State Fault Refusal := runJob unpack565ShiftedOp c s

/-- UNPACK565_SCALED (R410). -/
def execUnpack565Scaled (c : Cmd) (s : State) : Host.Outcome State Fault Refusal := runJob unpack565ScaledOp c s

/-- PACK1010102 (R411). -/
def execPack1010102 (c : Cmd) (s : State) : Host.Outcome State Fault Refusal := runJob pack1010102Op c s

/-- UNPACK1010102_SHIFTED (R412). -/
def execUnpack1010102Shifted (c : Cmd) (s : State) : Host.Outcome State Fault Refusal := runJob unpack1010102ShiftedOp c s

/-- UNPACK1010102_SCALED (R413). -/
def execUnpack1010102Scaled (c : Cmd) (s : State) : Host.Outcome State Fault Refusal := runJob unpack1010102ScaledOp c s

end Sys2Proof.Machine
end

