-- ==== Sys2Proof/Machine/Catalog.lean ====
section
/-! DEFINITION. The command table as data: what distinguishes each command, for the footprints an accepted START owns
(R106, R112). -/

namespace Sys2Proof.Machine

/-- What distinguishes the command; NOP has no footprint and no pixel. -/
def jobOf : Instr → Option (JobOp × Cmd)
  | .nop => none
  | .linearize c => some (linearizeOp, c)
  | .gamma c => some (gammaOp, c)
  | .rgbToXyz c => some (rgbToXyzOp, c)
  | .xyzToRgb c => some (xyzToRgbOp, c)
  | .rgbToLab c => some (rgbToLabOp, c)
  | .labToRgb c => some (labToRgbOp, c)
  | .rgbToLuv c => some (rgbToLuvOp, c)
  | .luvToRgb c => some (luvToRgbOp, c)
  | .rgbToLch c => some (rgbToLchOp, c)
  | .lchToRgb c => some (lchToRgbOp, c)
  | .rgbToOklab c => some (rgbToOklabOp, c)
  | .oklabToRgb c => some (oklabToRgbOp, c)
  | .rgbToOklch c => some (rgbToOklchOp, c)
  | .oklchToRgb c => some (oklchToRgbOp, c)
  | .rgbToJzazbz c => some (rgbToJzazbzOp, c)
  | .jzazbzToRgb c => some (jzazbzToRgbOp, c)
  | .rgbToJzczhz c => some (rgbToJzczhzOp, c)
  | .jzczhzToRgb c => some (jzczhzToRgbOp, c)
  | .rgbToHsv c => some (rgbToHsvOp, c)
  | .hsvToRgb c => some (hsvToRgbOp, c)
  | .rgbToHsl c => some (rgbToHslOp, c)
  | .hslToRgb c => some (hslToRgbOp, c)
  | .rgbToSigmoid c => some (rgbToSigmoidOp, c)
  | .sigmoidToRgb c => some (sigmoidToRgbOp, c)
  | .rgbToLalphabeta c => some (rgbToLalphabetaOp, c)
  | .lalphabetaToRgb c => some (lalphabetaToRgbOp, c)
  | .xyzToLab c => some (xyzToLabOp, c)
  | .labToXyz c => some (labToXyzOp, c)
  | .xyzToLuv c => some (xyzToLuvOp, c)
  | .luvToXyz c => some (luvToXyzOp, c)
  | .luvToLch c => some (luvToLchOp, c)
  | .lchToLuv c => some (lchToLuvOp, c)
  | .oklabToOklch c => some (oklabToOklchOp, c)
  | .oklchToOklab c => some (oklchToOklabOp, c)
  | .xyzToJzazbz c => some (xyzToJzazbzOp, c)
  | .jzazbzToXyz c => some (jzazbzToXyzOp, c)
  | .jzazbzToJzczhz c => some (jzazbzToJzczhzOp, c)
  | .jzczhzToJzazbz c => some (jzczhzToJzazbzOp, c)
  | .xyzToLalphabeta c => some (xyzToLalphabetaOp, c)
  | .lalphabetaToXyz c => some (lalphabetaToXyzOp, c)
  | .copy c => some (copyOp, c)
  | .expand c => some (expandOp, c)
  | .strip c => some (stripOp, c)
  | .deinterleave c => some (deinterleaveOp, c)
  | .interleave c => some (interleaveOp, c)
  | .pack565 c => some (pack565Op, c)
  | .unpack565Shifted c => some (unpack565ShiftedOp, c)
  | .unpack565Scaled c => some (unpack565ScaledOp, c)
  | .pack1010102 c => some (pack1010102Op, c)
  | .unpack1010102Shifted c => some (unpack1010102ShiftedOp, c)
  | .unpack1010102Scaled c => some (unpack1010102ScaledOp, c)
  | .distEuclid c => some (distEuclidOp, c)
  | .distTaxicab c => some (distTaxicabOp, c)
  | .cmpEq c => some (cmpEqOp, c)

/-- R154: the opcode exists in this configuration. -/
def opcodePresent (cfg : Config) (i : Instr) : Bool := cfg.hasCompare || decide (i.opcode < 0x50)

/-! ### Footprints (R106, R112)

R112 gives an accepted job its footprints whether or not a START check then refuses it (log entry 17). R152 sizes its
buffers from the layouts and types alone, so a command with a reserved bit or a reserved code has footprints too. -/

/-- R149: the word with its reserved bits cleared. -/
def clearReserved (w : Word) : Word := w &&& 0x1F7FFFFF#32

/-- The element types a type code may stand for: R104 gives the reserved code no size. -/
def typeReadings : TypeCode → List ElemType
  | .elem t => [t]
  | .reserved => [.u8, .u16, .f32]

def tfReading : TfCode → Curve
  | .curve t => t
  | .reserved _ => .none

def amodeReading : AmodeCode → AlphaMode
  | .mode m => m
  | .reserved => .none

def spaceReading : SpaceCode → EqSpace
  | .space e => e
  | .reserved _ => .standard

/-- The fields of a command as its footprints read them: one reading, unless a type code is reserved. A reserved TF,
AMODE or SPACE code reads as 0: no buffer rests on one but S2 of EXPAND, an argument under PASS alone (R151). -/
def readings (c : Cmd) : List Fields :=
  (typeReadings c.srcType).flatMap fun st => (typeReadings c.dstType).map fun dt =>
    ⟨c.srcLayout, st, c.dstLayout, dt, tfReading c.tf, amodeReading c.amode, c.imm, c.pos.val, spaceReading c.space⟩

/-- R106: the job of latched registers `a` under each reading of its command, if it has footprints: its opcode exists, and
it is a buffer job with pixels. -/
def footprintJob (cfg : Config) (a : Regs) : Option (JobOp × JobCtx × List JobCtx) :=
  match decode (clearReserved a.cmd) with
  | .error _ => none
  | .ok i =>
    match jobOf i with
    | none => none
    | some (op, c) =>
      match readings c with
      | [] => none
      | f :: rest =>
        if opcodePresent cfg i && addressed ⟨cfg, a, f⟩ then some (op, ⟨cfg, a, f⟩, rest.map fun g => ⟨cfg, a, g⟩)
        else none

/-- R112: the destination elements of the job of latched registers `a`, with what each depends on, where every reading
gives the same. -/
def jobPlan (cfg : Config) (a : Regs) : List ElemPlan :=
  match footprintJob cfg a with
  | none => []
  | some (op, x, others) =>
    (rowMajor x fun c y =>
      (pixelPlan op x c y).filter fun p => others.all fun z => decide (p ∈ pixelPlan op z c y)).flatten

/-- R106, R112: its destination footprints, row by row: of each destination buffer that every reading gives. A buffer whose
pixel size rests on a reserved type code has none. -/
def jobDests (cfg : Config) (a : Regs) : List Access :=
  match footprintJob cfg a with
  | none => []
  | some (op, x, others) =>
    footprintRows a ((op.dests x).filter fun b => others.all fun z => decide (b ∈ op.dests z))

end Sys2Proof.Machine
end

