-- ==== Sys2Proof/Machine/Dispatch.lean ====
section
/-! DEFINITION. The dispatch: one arm per command of the opcode table (R150). -/

namespace Sys2Proof.Machine

def exec (i : Instr) (s : State) : Host.Outcome State Fault Refusal :=
  match i with
  | .nop => Sys2Proof.Machine.execNop s
  | .linearize c => Sys2Proof.Machine.execLinearize c s
  | .gamma c => Sys2Proof.Machine.execGamma c s
  | .rgbToXyz c => Sys2Proof.Machine.execRgbToXyz c s
  | .xyzToRgb c => Sys2Proof.Machine.execXyzToRgb c s
  | .rgbToLab c => Sys2Proof.Machine.execRgbToLab c s
  | .labToRgb c => Sys2Proof.Machine.execLabToRgb c s
  | .rgbToLuv c => Sys2Proof.Machine.execRgbToLuv c s
  | .luvToRgb c => Sys2Proof.Machine.execLuvToRgb c s
  | .rgbToLch c => Sys2Proof.Machine.execRgbToLch c s
  | .lchToRgb c => Sys2Proof.Machine.execLchToRgb c s
  | .rgbToOklab c => Sys2Proof.Machine.execRgbToOklab c s
  | .oklabToRgb c => Sys2Proof.Machine.execOklabToRgb c s
  | .rgbToOklch c => Sys2Proof.Machine.execRgbToOklch c s
  | .oklchToRgb c => Sys2Proof.Machine.execOklchToRgb c s
  | .rgbToJzazbz c => Sys2Proof.Machine.execRgbToJzazbz c s
  | .jzazbzToRgb c => Sys2Proof.Machine.execJzazbzToRgb c s
  | .rgbToJzczhz c => Sys2Proof.Machine.execRgbToJzczhz c s
  | .jzczhzToRgb c => Sys2Proof.Machine.execJzczhzToRgb c s
  | .rgbToHsv c => Sys2Proof.Machine.execRgbToHsv c s
  | .hsvToRgb c => Sys2Proof.Machine.execHsvToRgb c s
  | .rgbToHsl c => Sys2Proof.Machine.execRgbToHsl c s
  | .hslToRgb c => Sys2Proof.Machine.execHslToRgb c s
  | .rgbToSigmoid c => Sys2Proof.Machine.execRgbToSigmoid c s
  | .sigmoidToRgb c => Sys2Proof.Machine.execSigmoidToRgb c s
  | .rgbToLalphabeta c => Sys2Proof.Machine.execRgbToLalphabeta c s
  | .lalphabetaToRgb c => Sys2Proof.Machine.execLalphabetaToRgb c s
  | .xyzToLab c => Sys2Proof.Machine.execXyzToLab c s
  | .labToXyz c => Sys2Proof.Machine.execLabToXyz c s
  | .xyzToLuv c => Sys2Proof.Machine.execXyzToLuv c s
  | .luvToXyz c => Sys2Proof.Machine.execLuvToXyz c s
  | .luvToLch c => Sys2Proof.Machine.execLuvToLch c s
  | .lchToLuv c => Sys2Proof.Machine.execLchToLuv c s
  | .oklabToOklch c => Sys2Proof.Machine.execOklabToOklch c s
  | .oklchToOklab c => Sys2Proof.Machine.execOklchToOklab c s
  | .xyzToJzazbz c => Sys2Proof.Machine.execXyzToJzazbz c s
  | .jzazbzToXyz c => Sys2Proof.Machine.execJzazbzToXyz c s
  | .jzazbzToJzczhz c => Sys2Proof.Machine.execJzazbzToJzczhz c s
  | .jzczhzToJzazbz c => Sys2Proof.Machine.execJzczhzToJzazbz c s
  | .xyzToLalphabeta c => Sys2Proof.Machine.execXyzToLalphabeta c s
  | .lalphabetaToXyz c => Sys2Proof.Machine.execLalphabetaToXyz c s
  | .copy c => Sys2Proof.Machine.execCopy c s
  | .expand c => Sys2Proof.Machine.execExpand c s
  | .strip c => Sys2Proof.Machine.execStrip c s
  | .deinterleave c => Sys2Proof.Machine.execDeinterleave c s
  | .interleave c => Sys2Proof.Machine.execInterleave c s
  | .pack565 c => Sys2Proof.Machine.execPack565 c s
  | .unpack565Shifted c => Sys2Proof.Machine.execUnpack565Shifted c s
  | .unpack565Scaled c => Sys2Proof.Machine.execUnpack565Scaled c s
  | .pack1010102 c => Sys2Proof.Machine.execPack1010102 c s
  | .unpack1010102Shifted c => Sys2Proof.Machine.execUnpack1010102Shifted c s
  | .unpack1010102Scaled c => Sys2Proof.Machine.execUnpack1010102Scaled c s
  | .distEuclid c => Sys2Proof.Machine.execDistEuclid c s
  | .distTaxicab c => Sys2Proof.Machine.execDistTaxicab c s
  | .cmpEq c => Sys2Proof.Machine.execCmpEq c s

end Sys2Proof.Machine
end

