-- ==== Sys2Proof/Machine/Host.lean ====
section
/-! DEFINITION. What the host does to the block and to memory: the register window (R41 to R43, R116), CTRL in its order
(R49), START (R501, R502), STATUS (R524), and host memory accesses under the ownership and coherence rules (R112, R118). -/

namespace Sys2Proof.Machine

/-! ### START -/

/-- The host's cache line of an address (R118; log entry 13). -/
def lineOf (cfg : Config) (a : Nat) : Access := ⟨a / cfg.cacheLine * cfg.cacheLine, cfg.cacheLine⟩

/-- R118: the lines of the listed bytes, which matter when the job's accesses are not coherent with the host's. -/
def dirtyLines (cfg : Config) (dirty : List Nat) : List Access := if cfg.ioCoherent then [] else dirty.map (lineOf cfg)

/-- The bytes that races cost a job of elements `plan` and destinations `dests`: the elements `hit` names, and the
destination bytes within `ranges`, each at an address that exists. -/
def raceCost (cfg : Config) (hit : ElemPlan → Bool) (ranges : List Access) (plan : List ElemPlan) (dests : List Access) :
    List Nat :=
  ((plan.filter hit).flatMap (fun p => p.dst.bytes) ++ ranges.flatMap fun r => dests.flatMap r.common).filter fun b =>
    decide (b < spaceSize cfg.addrW)

/-- The bytes that a host store to `a` costs such a job: every element that depends on `a` (R112 (a)), `a` itself in a
destination (R112 (b)), and the destination bytes of the line it makes dirty (R118). -/
def storeCost (cfg : Config) (a : Nat) : List ElemPlan → List Access → List Nat :=
  raceCost cfg (fun p => p.needs a) (⟨a, 1⟩ :: dirtyLines cfg [a])

/-- R118: the bytes that lines still dirty at START cost the job: every element that reads such a line, and the
destination bytes of each. -/
def startCost (cfg : Config) (dirty : List Nat) : List ElemPlan → List Access → List Nat :=
  raceCost cfg (fun p => p.deps.any fun d => (dirtyLines cfg dirty).any fun l => l.covers d) (dirtyLines cfg dirty)

/-- The elements of the jobs before the one accepted now that still own their footprints, byte by byte (R112). -/
def Env.earlier (e : Env) : List ElemPlan := if e.owning then e.plan.flatMap ElemPlan.bytewise ++ e.past else []

/-- The elements of the job accepted now, with what each depends on. -/
def State.newPlan (s : State) : List ElemPlan := (jobPlan s.cfg s.regs).map (ElemPlan.chain s.env.earlier)

/-- R502: acceptance. The registers are latched (R76), DONE falls, BUSY rises, and the job owns its footprints (R112),
beside those of earlier jobs whose end the host has not seen (log entry 19). Without I/O coherence, lines still dirty race
with this job and no earlier one, and its destination is stale in the host's cache until the host invalidates it (R118;
log entry 22). -/
def State.accept (s : State) : State :=
  { s with
    done := false
    job := some ⟨s.regs, .check, []⟩
    env := { s.env with
      owning := true
      plan := s.newPlan
      dests := jobDests s.cfg s.regs
      past := s.env.earlier
      pastDests := if s.env.owning then s.env.owned else []
      doomed := startCost s.cfg s.env.dirty s.newPlan (jobDests s.cfg s.regs)
      stale := if s.cfg.ioCoherent then s.env.stale
        else (jobDests s.cfg s.regs).flatMap Access.bytes ++ s.env.stale } }

/-- R501: START, ignored while BUSY or ERR is 1. -/
def State.start (s : State) : State := if s.busy || s.errBit then s else s.accept

/-! ### The register window -/

/-- R48, R49: a CTRL write, in its order. -/
def State.writeCtrl (s : State) (v : Word) : State :=
  if v.getLsbD 1 then s.resetBlock
  else
    let s := { s with ieDone := v.getLsbD 8, ieErr := v.getLsbD 9 }
    let s := if v.getLsbD 2 then s.lutInvalidate else s
    if v.getLsbD 0 then s.start else s

/-- R41: the accesses CTP answers: aligned, 32 bits wide, within the window. -/
def isRegAccess (off width : Nat) : Bool := decide (width = 4) && decide (off % 4 = 0) && decide (off < 4096)

/-- A host write in the window. Read-only and reserved offsets take nothing (R42, R43). -/
def State.regWrite (s : State) (off width : Nat) (v : Word) : State :=
  if !isRegAccess off width then s
  else if off = 0x008 then s.writeCtrl v
  else if off = 0x00C then s.acknowledge v
  else { s with regs := s.regs.write s.cfg.addrW off v }

/-- R112: the host observes BUSY = 0, and ownership ends. -/
def State.observe (s : State) : State :=
  if s.busy then s
  else { s with env := { s.env with owning := false, plan := [], dests := [], past := [], pastDests := [], doomed := [] } }

/-- A host read in the window: no register changes (R43); an access CTP does not answer reads 0 (R41). -/
def State.regRead (s : State) (off width : Nat) : State :=
  if !isRegAccess off width then { s with env := { s.env with readData := 0#32 } }
  else
    let s := { s with env := { s.env with readData := s.readReg off } }
    if off = 0x00C then s.observe else s

/-! ### System memory -/

/-- The host's value lands. Without I/O coherence the store makes its line dirty (R118). -/
def State.putByte (s : State) (a : Nat) (v : Byte) : State :=
  { s with
    mem := s.mem.setByte a v
    env := { s.env with dirty := if s.cfg.ioCoherent then s.env.dirty else a :: s.env.dirty } }

/-- What a store to `a` costs the job accepted last. -/
def State.lastCost (s : State) (a : Nat) : List Nat := storeCost s.cfg a s.env.plan s.env.dests

/-- What a store to `a` costs the jobs that ended before it. -/
def State.pastCost (s : State) (a : Nat) : List Nat := storeCost s.cfg a s.env.past s.env.pastDests

/-- A host store (R112 (a), (b), R118): the byte holds the host's value. What a race makes "any value" becomes so when the
running job ends, and at once for a job that has ended and whose end the host has not yet seen, so that a later job reads
it so, and what a later job writes there stays (log entry 15). -/
def State.hostStore (s : State) (a : Nat) (v : Byte) : State :=
  let t := s.putByte a v
  if !s.env.owning then t
  else if s.busy then
    State.drawBytes { t with env := { t.env with doomed := s.lastCost a ++ s.env.doomed } } (s.pastCost a)
  else t.drawBytes (s.lastCost a ++ s.pastCost a)

/-- A host load: any value from an owned destination (R112 (c)) or a stale byte (R118). -/
def State.hostLoad (s : State) (a : Nat) : State :=
  if s.env.owned.any (fun c => c.covers a) || decide (a ∈ s.env.stale) then
    { s with env := { s.env with
        readData := (Config.freeByte s.env.draws).setWidth 32
        draws := s.env.draws + 1 } }
  else { s with env := { s.env with readData := (s.mem.byte a).setWidth 32 } }

/-- The cache line of `a` overlaps the `len` bytes from `lo` up. -/
def lineTouches (cfg : Config) (lo len a : Nat) : Bool := (lineOf cfg a).meets ⟨lo, len⟩

/-- R118: the host cleans its cache over a range. -/
def State.cacheClean (s : State) (lo len : Nat) : State :=
  { s with env := { s.env with dirty := s.env.dirty.filter fun a => !lineTouches s.cfg lo len a } }

/-- R118: the host invalidates its cache over a range. It counts for the bytes of a job whose end the host has seen, also
while a later job runs, and not for a byte that a job still owns as its destination (log entry 22). Over a line that
still holds stores the host has not cleaned, the spec says nothing, for it is the host's own architecture: the model
keeps the stored bytes in memory and their dirty mark (DESIGN CHOICE; log entry 33). -/
def State.cacheInvalidate (s : State) (lo len : Nat) : State :=
  { s with env := { s.env with
      stale := s.env.stale.filter fun a => !lineTouches s.cfg lo len a || s.env.owned.any fun d => d.covers a } }

/-! ### One host action -/

/-- A memory access at an address that does not exist is the host's fault (R8). -/
def inSpace (s : State) (a : Nat) (t : State) : Host.Outcome State Fault Refusal :=
  if a < spaceSize s.cfg.addrW then .next t else .fault (.hostAddressOutsideSpace a)

/-- One action of the host or the platform, atomic (R116). A host access to the register window is given as `regWrite` or
`regRead`: a `memStore` or `memLoad` is one to system memory, also at an address of a known window (DESIGN CHOICE; log
entry 30). -/
def hostStep (act : HostAct) (s : State) : Host.Outcome State Fault Refusal :=
  match act with
  | .regWrite off width v => .next (s.regWrite off width v)
  | .regRead off width => .next (s.regRead off width)
  | .memStore a v => inSpace s a (s.hostStore a v)
  | .memLoad a => inSpace s a (s.hostLoad a)
  | .cacheClean lo len => .next (s.cacheClean lo len)
  | .cacheInvalidate lo len => .next (s.cacheInvalidate lo len)
  | .powerOnReset => .next s.resetBlock

end Sys2Proof.Machine
end

