-- ==== Sys2Proof/Machine/Fetch.lean ====
section
/-! DEFINITION. Fetching: the running job's command is its latched word (R76, R82), and a word that is no command is
answered by ILLEGAL_CMD (R154, R534). -/

namespace Sys2Proof.Machine

/-- R82: the word the engine executes, while a job runs. -/
def State.fetch (s : State) : Option Word := s.job.map fun j => j.args.cmd

/-- The host's next action comes before the next engine step. -/
def State.hostTurn (s : State) : Option (HostAct × State) :=
  match s.env.inputs with
  | [] => none
  | i :: rest =>
    if s.job.isNone || decide (i.after = 0) then some (i.act, { s with env := { s.env with inputs := rest } }) else none

/-- R512 (a), (b): the check step of a word that is no command. -/
def undecodable (w : Word) (s : State) : State := s.settled.errorEntry .illegalCmd w 0#32

/-- `s` with the low `nbits` bits of `w` as the command of a job the engine has just accepted: the host's write of CMD and
its START (log entry 12). No error is pending, and no host action comes first. -/
def State.withCommand (s : State) (w : Word) : State :=
  State.accept { s with
    regs := { s.regs with cmd := w }
    err := none
    errInfoLo := 0#32
    errInfoHi := 0#32
    env := { s.env with inputs := [] } }

end Sys2Proof.Machine
end

