-- ==== Sys2Proof/Machine/Step.lean ====
section
/-! DEFINITION. One step of the machine: the host's next action if it comes now, else the running job's command (R503). -/

namespace Sys2Proof.Machine

/-- One step. With no job and no host action, the idle engine waits (R563, R590). -/
def step (s : State) : Host.Outcome State Fault Refusal :=
  match s.hostTurn with
  | some (act, t) => hostStep act t
  | none =>
    match s.fetch with
    | none => .next s
    | some w =>
      match decode w with
      | .ok i => exec i s
      | .error _ => .next (undecodable w s)

/-- `s` with the command word of `nbits` bits in the running job's record, just accepted: the next step runs it. -/
def State.withFetchWord (s : State) (nbits w : Nat) : State :=
  s.withCommand (BitVec.ofNat 32 (w % 2 ^ nbits))

end Sys2Proof.Machine
end

