-- ==== Sys2Proof/Safety.lean ====
section
/-! DEFINITION. The terms the statements use: the invariant of every state, a job at its start, and the conditions and the
end states the rules give, written apart from the engine that computes them. -/

namespace Sys2Proof.Machine

/-! ### The invariant -/

/-- What every step keeps: memory in its canonical form; R54 and R523 on BUSY, DONE and ERR; R70 on ERR_INFO; R200 on the
lookup table; R44 on the `*_HI` registers when `ADDR_W = 32`. -/
structure Inv (s : State) : Prop where
  memWf : s.mem.wf = true
  busyClear : s.job ≠ none → s.done = false ∧ s.err = none
  oneEnd : s.done = true → s.err = none
  errInfo : s.err = none → s.errInfoLo = 0#32 ∧ s.errInfoHi = 0#32
  lutExact : s.lut.valid = true → s.lut.entry = lutEntries s.cfg.elem s.lut.gamma s.lut.tf
  hiZero : s.cfg.addrW = .w32 → s.regs.srcHi = 0#32 ∧ s.regs.dstHi = 0#32 ∧ s.regs.src2Hi = 0#32

/-! ### The accuracy of an elementary-function record (R27) -/

/-- `x` is near the reference value `y`: equal to it where that is a NaN, else within `n` units in the last place. -/
def near (n : Nat) (x y : F32) : Bool := if isNaN y then decide (x = y) else withinUlps n x y

/-- R27: the accuracy property of a record. Each of its functions is near the correctly rounded one, by the number of
units in the last place that the record states, for every operand. A claim about a record beyond `ELEM_CR` rests on
this and on R28 alone. -/
structure Accurate (e : ElemChoice) : Prop where
  cbrt : ∀ x, near e.ulps (elemCbrt e x) (elemCbrt .correctlyRounded x) = true
  pow : ∀ x y, near e.ulps (elemPow e x y) (elemPow .correctlyRounded x y) = true
  exp : ∀ x, near e.ulps (elemExp e x) (elemExp .correctlyRounded x) = true
  exp10 : ∀ x, near e.ulps (elemExp10 e x) (elemExp10 .correctlyRounded x) = true
  ln : ∀ x, near e.ulps (elemLn e x) (elemLn .correctlyRounded x) = true
  log10 : ∀ x, near e.ulps (elemLog10 e x) (elemLog10 .correctlyRounded x) = true
  atan2 : ∀ y x, near e.ulps (elemAtan2 e y x) (elemAtan2 .correctlyRounded y x) = true
  sin : ∀ x, near e.ulps (elemSin e x) (elemSin .correctlyRounded x) = true
  cos : ∀ x, near e.ulps (elemCos e x) (elemCos .correctlyRounded x) = true
  hypot : ∀ x y, near e.ulps (elemHypot e x y) (elemHypot .correctlyRounded x y) = true

/-! ### A job at its start -/

/-- Job `j` has just been accepted, and the host does nothing until it ends. -/
structure Started (s : State) (j : Job) : Prop where
  running : s.job = some j
  unchecked : j.phase = .check
  alone : s.env.inputs = []

/-- No access can fault but by leaving the address space (R117, R123). -/
def FaultFree (cfg : Config) : Prop := cfg.busFaults = [] ∧ cfg.windowBase = none

/-- What the rules of the job of `s` read, for fields `f`. -/
def ctxOf (s : State) (j : Job) (f : Fields) : JobCtx := ⟨s.cfg, j.args, f⟩

/-- The listed registers hold finite positive values (R513). -/
def AllPositive (a : Regs) (l : List Param) : Prop := ∀ p ∈ l, isPosFinite (p.value a) = true

/-- GAMMA is checked under TF = POWER only (R359). -/
def GammaOk (a : Regs) (tf : Curve) : Prop := tf = .power → isPosFinite a.gamma = true

/-- POS and SPACE are 0 (R151). -/
def Plain (f : Fields) : Prop := f.pos = 0 ∧ f.sp = .standard

/-- R159: the colorspace side of a job is RGB.F32 or RGBA.F32. -/
def CsSide (l : Layout) (t : ElemType) : Prop := (l = .rgb ∨ l = .rgba) ∧ t = .f32

/-- R151, column by column but for AMODE: OP `op` exists (R154) and allows the layouts, types, TF, POS, SPACE and IMM of
`f`, one clause for each row of the table. -/
def FieldsLegal (op : Nat) (hasCompare : Bool) (f : Fields) : Prop :=
  (op ∈ [0x01, 0x02] → f.tf ≠ .none ∧ Plain f)
  ∧ (op = 0x40 → f.tf = .none ∧ Plain f)
  ∧ (0x10 ≤ op ∧ op ≤ 0x26 ∧ op % 2 = 0 → CsSide f.dl f.dt ∧ Plain f)
  ∧ (0x11 ≤ op ∧ op ≤ 0x27 ∧ op % 2 = 1 → CsSide f.sl f.st ∧ Plain f)
  ∧ (0x30 ≤ op ∧ op ≤ 0x3D → CsSide f.sl f.st ∧ CsSide f.dl f.dt ∧ f.tf = .none ∧ Plain f)
  ∧ (op = 0x41 → (f.sl = .rgb ∧ f.dl = .rgba ∨ f.sl = .bgr ∧ f.dl = .bgra) ∧ f.dt = f.st ∧ f.tf = .none
      ∧ f.sp = .standard)
  ∧ (op = 0x42 → (f.sl = .rgba ∧ f.dl = .rgb ∨ f.sl = .bgra ∧ f.dl = .bgr) ∧ f.dt = f.st ∧ f.tf = .none
      ∧ f.sp = .standard)
  ∧ (op ∈ [0x43, 0x44] → f.dl = f.sl ∧ f.dt = f.st ∧ f.tf = .none ∧ Plain f ∧ f.imm = false)
  ∧ (op = 0x45 → f.st = .u8 ∧ f.dl = .rgb ∧ f.dt = .u8 ∧ f.tf = .none ∧ Plain f)
  ∧ (op ∈ [0x46, 0x49] → f.sl = .rgb ∧ f.st = .u8 ∧ f.dt ≠ .f32 ∧ f.tf = .none ∧ Plain f)
  ∧ (op ∈ [0x47, 0x4A] → f.sl = .rgb ∧ f.st = .u8 ∧ f.tf = .none ∧ Plain f)
  ∧ (op = 0x48 → f.st ≠ .f32 ∧ f.dl = .rgb ∧ f.dt = .u8 ∧ f.tf = .none ∧ Plain f)
  ∧ (op ∈ [0x50, 0x51] → hasCompare = true ∧ CsSide f.sl f.st ∧ f.dl = .rgb ∧ f.dt = .f32 ∧ f.tf = .none ∧ Plain f
      ∧ f.imm = false)
  ∧ (op = 0x52 → hasCompare = true ∧ CsSide f.sl f.st ∧ f.dl = .rgb ∧ f.dt = .u8 ∧ f.tf = .none ∧ f.pos = 0
      ∧ f.imm = false)

/-- R327: the "legal when" column. -/
def AlphaLegal (f : Fields) : Prop :=
  (f.am = .none → hasAlpha f.dl = false) ∧ (f.am = .pass → hasAlpha f.sl = true ∧ hasAlpha f.dl = true)
    ∧ (f.am = .const → hasAlpha f.dl = true)

/-- R151: the AMODE column of OP `op`, one clause for each entry of the column. -/
def AmodeLegal (op : Nat) (f : Fields) : Prop :=
  (op ≤ 0x40 → AlphaLegal f)
  ∧ (op = 0x41 → f.am = .pass ∨ f.am = .const)
  ∧ (op ∈ [0x42, 0x43, 0x44, 0x45, 0x50, 0x51, 0x52] → f.am = .none)
  ∧ (op ∈ [0x46, 0x47] → f.am = if hasAlpha f.dl then .const else .none)
  ∧ (op = 0x48 → f.am = .pass ∧ hasAlpha f.sl = true ∨ f.am = .const)
  ∧ (op ∈ [0x49, 0x4A] → (f.am = .none ↔ hasAlpha f.dl = false))

/-! ### Single-pixel jobs (R330) -/

/-- The element at memory channel `k` of an IMM job's source pixel (R71, R321). -/
def immElem (a : Regs) (t : ElemType) (k : Nat) : Word := lowBytes (elemSize t) (a.pixIn.get k)

/-- The three colour channels of an IMM job's source pixel, by name (R323). -/
def immRgb (a : Regs) (f : Fields) : Tri :=
  ⟨immElem a f.st (rOff f.sl), immElem a f.st (gOff f.sl), immElem a f.st (bOff f.sl)⟩

/-- R327, R328: the destination alpha, 0 where there is none. -/
def immAlpha (a : Regs) (f : Fields) : Word :=
  match f.am with
  | .none => 0#32
  | .pass => conv f.st f.dt (immElem a f.st 3)
  | .const => rawAlpha f.dt a

/-- PIX_OUT for a destination pixel with named colours and alpha (R72, R322, R323). -/
def namedQuad (l : Layout) (r g b a : Word) : Quad :=
  match l with
  | .rgb => ⟨r, g, b, a⟩
  | .rgba => ⟨r, g, b, a⟩
  | .bgr => ⟨b, g, r, a⟩
  | .bgra => ⟨b, g, r, a⟩

/-- The end of an IMM job (R522): DONE, PIX_OUT written, nothing else changed but what races cost (`State.settled`, which
changes nothing where `env.doomed` is empty). -/
def immDone (s : State) (q : Quad) : State := { s.settled with job := none, done := true, pixOut := q }

/-- R208 on an IMM pixel, `g` being the element function. -/
def rgbSideImm (a : Regs) (f : Fields) (g : Word → Word) : Quad :=
  namedQuad f.dl (g (immRgb a f).c0) (g (immRgb a f).c1) (g (immRgb a f).c2) (immAlpha a f)

/-- R332 on an IMM pixel, `k` being the kernel chain of R269. -/
def forwardImm (cfg : Config) (a : Regs) (f : Fields) (k : Tri → Tri) : Quad :=
  let v := k (mapTri (fun w => lin cfg.elem a.gamma f.tf (norm f.st w)) (immRgb a f))
  ⟨v.c0, v.c1, v.c2, immAlpha a f⟩

/-- R333 on an IMM pixel. -/
def inverseImm (cfg : Config) (a : Regs) (f : Fields) (k : Tri → Tri) : Quad :=
  let v := mapTri (fun x => quant f.dt (gam cfg.elem a.gamma f.tf x)) (k (immRgb a f))
  namedQuad f.dl v.c0 v.c1 v.c2 (immAlpha a f)

/-- R358 on an IMM pixel. -/
def kernelImm (a : Regs) (f : Fields) (k : Tri → Tri) : Quad :=
  let v := k (immRgb a f)
  ⟨v.c0, v.c1, v.c2, immAlpha a f⟩

/-! ### Buffer jobs -/

/-- What a buffer job of pixels (`c`, `y`) reads in memory `m`, by slot (R321). -/
def memElems (op : JobOp) (x : JobCtx) (m : Memory) (c y : Nat) (k : Nat) : Word :=
  match (op.srcElems x)[k]? with
  | some e => m.read (e.access c y)
  | none => 0#32

/-- The table after a job's check (R202): filled if the job needs it, else as before. -/
def lutAfter (op : JobOp) (x : JobCtx) (l : Lut) : Lut :=
  if needsFill op x l then lutFor x.cfg.elem x.f.tf x.args.gamma else l

/-- Address `a` lies in no destination element of the job: outside its destination footprints (R106, R109). -/
def OutsideDst (op : JobOp) (x : JobCtx) (a : Nat) : Prop :=
  ∀ c y e, c < x.args.width.toNat → y < x.args.height.toNat → e ∈ op.dstElems x → (e.access c y).covers a = false

/-- A host store to `a` makes byte `b` of a job of elements `plan` and destinations `dests` "any value": `b` belongs to an
element that depends on `a` (R112 (a)), or it is a destination byte and `a` itself (R112 (b)) or, without I/O coherence, a
byte of the line of `a` (R118). -/
def StoreRaces (cfg : Config) (plan : List ElemPlan) (dests : List Access) (a b : Nat) : Prop :=
  b < spaceSize cfg.addrW
    ∧ ((∃ p ∈ plan, (a ∈ p.deps ∨ a ∈ p.via) ∧ p.dst.covers b = true)
      ∨ (b = a ∨ cfg.ioCoherent = false ∧ (lineOf cfg a).covers b = true) ∧ ∃ d ∈ dests, d.covers b = true)

/-- A line still dirty at START makes byte `b` of the job of elements `plan` and destinations `dests` "any value" (R118):
`b` belongs to an element that reads the line, or it is a destination byte of the line. -/
def StartRaces (cfg : Config) (dirty : List Nat) (plan : List ElemPlan) (dests : List Access) (b : Nat) : Prop :=
  cfg.ioCoherent = false ∧ b < spaceSize cfg.addrW ∧ ∃ a ∈ dirty,
    (∃ p ∈ plan, (∃ d ∈ p.deps, (lineOf cfg a).covers d = true) ∧ p.dst.covers b = true)
      ∨ (lineOf cfg a).covers b = true ∧ ∃ d ∈ dests, d.covers b = true

/-- Byte `b` is "any value" when the running job ends. -/
def Raced (s : State) (b : Nat) : Prop := b ∈ s.env.doomed

/-- Address `a` is a byte of the footprint of a buffer argument of `w` columns and `h` rows (R106). -/
def InFootprint (w h : Nat) (b : BufArg) (a : Nat) : Prop :=
  ∃ y, y < h ∧ b.base + y * b.stride ≤ a ∧ a < b.base + y * b.stride + w * b.bpp

/-- R106, R152: `f` is a reading of the fields of `c`, for the footprints of a job that may be refused: it agrees with
every code that is not reserved. -/
structure Reads (c : Cmd) (f : Fields) : Prop where
  srcLayout : f.sl = c.srcLayout
  dstLayout : f.dl = c.dstLayout
  srcType : ∀ t, c.srcType = .elem t → f.st = t
  dstType : ∀ t, c.dstType = .elem t → f.dt = t
  tf : ∀ t, c.tf = .curve t → f.tf = t
  amode : ∀ m, c.amode = .mode m → f.am = m
  imm : f.imm = c.imm
  pos : f.pos = c.pos.val
  space : ∀ e, c.space = .space e → f.sp = e

/-- The registers R359 lists for a command, beside GAMMA under TF = POWER. -/
def paramTable : Instr → List Param
  | .nop => []
  | .linearize _ => []
  | .gamma _ => []
  | .rgbToXyz _ => [.xyzScale]
  | .xyzToRgb _ => [.xyzScale]
  | .rgbToLab _ => [.xyzScale, .whiteX, .whiteY, .whiteZ]
  | .labToRgb _ => [.xyzScale, .whiteX, .whiteY, .whiteZ]
  | .rgbToLuv _ => [.xyzScale, .whiteX, .whiteY, .whiteZ]
  | .luvToRgb _ => [.xyzScale, .whiteX, .whiteY, .whiteZ]
  | .rgbToLch _ => [.xyzScale, .whiteX, .whiteY, .whiteZ]
  | .lchToRgb _ => [.xyzScale, .whiteX, .whiteY, .whiteZ]
  | .rgbToOklab _ => []
  | .oklabToRgb _ => []
  | .rgbToOklch _ => []
  | .oklchToRgb _ => []
  | .rgbToJzazbz _ => [.xyzScale, .jzLum]
  | .jzazbzToRgb _ => [.xyzScale, .jzLum]
  | .rgbToJzczhz _ => [.xyzScale, .jzLum]
  | .jzczhzToRgb _ => [.xyzScale, .jzLum]
  | .rgbToHsv _ => []
  | .hsvToRgb _ => []
  | .rgbToHsl _ => []
  | .hslToRgb _ => []
  | .rgbToSigmoid _ => []
  | .sigmoidToRgb _ => []
  | .rgbToLalphabeta _ => [.xyzScale]
  | .lalphabetaToRgb _ => [.xyzScale]
  | .xyzToLab _ => [.whiteX, .whiteY, .whiteZ]
  | .labToXyz _ => [.whiteX, .whiteY, .whiteZ]
  | .xyzToLuv _ => [.whiteX, .whiteY, .whiteZ]
  | .luvToXyz _ => [.whiteX, .whiteY, .whiteZ]
  | .luvToLch _ => []
  | .lchToLuv _ => []
  | .oklabToOklch _ => []
  | .oklchToOklab _ => []
  | .xyzToJzazbz _ => [.xyzScale, .jzLum]
  | .jzazbzToXyz _ => [.xyzScale, .jzLum]
  | .jzazbzToJzczhz _ => []
  | .jzczhzToJzazbz _ => []
  | .xyzToLalphabeta _ => []
  | .lalphabetaToXyz _ => []
  | .copy _ => []
  | .expand _ => []
  | .strip _ => []
  | .deinterleave _ => []
  | .interleave _ => []
  | .pack565 _ => []
  | .unpack565Shifted _ => []
  | .unpack565Scaled _ => []
  | .pack1010102 _ => []
  | .unpack1010102Shifted _ => []
  | .unpack1010102Scaled _ => []
  | .distEuclid _ => []
  | .distTaxicab _ => []
  | .cmpEq _ => []

/-! ### Register offsets (R44) -/

/-- The offsets of the plain RW registers, the `*_HI` registers apart. -/
def plainOffsets : List Nat :=
  [0x010, 0x014, 0x018, 0x020, 0x028, 0x030, 0x038, 0x040, 0x048, 0x04C, 0x050, 0x054, 0x058, 0x05C, 0x060, 0x064,
    0x068, 0x080, 0x084, 0x088, 0x08C]

/-- The offsets of the `*_HI` registers. -/
def hiOffsets : List Nat := [0x024, 0x034, 0x044]

/-- The offsets of the coefficient bank's entries (R73). -/
def isBankOffset (off : Nat) : Prop := ∃ k i, k < 12 ∧ i < 9 ∧ off = 0x100 + 0x40 * k + 4 * i

/-- A register the host may write and read back in full. -/
def isPlainRegister (w : AddrWidth) (off : Nat) : Prop :=
  off ∈ plainOffsets ∨ isBankOffset off ∨ (w = .w64 ∧ off ∈ hiOffsets)

/-! ### Runs -/

/-- A step completes: it ends in a next state, with neither a fault nor a refusal. -/
def Completes (s : State) : Prop := ∃ t, step s = .next t

/-- Every memory access the host still makes is at an address that exists (R8). -/
def HostInSpace (s : State) : Prop :=
  ∀ i ∈ s.env.inputs, match i.act with
    | .memStore a _ => a < spaceSize s.cfg.addrW
    | .memLoad a => a < spaceSize s.cfg.addrW
    | _ => True

/-- A safe run: `n` steps, none of which stops the machine. -/
def SafeFor : Nat → State → Prop
  | 0, _ => True
  | n + 1, s => ∃ t, step s = .next t ∧ SafeFor n t

end Sys2Proof.Machine
end

