-- ==== Sys2Proof/Certificates/Slice0/Obligations.lean ====
section
/-! DEFINITION. The statements about the machine: encoding, what each command does and leaves, errors, the host's register
window, reset, the invariant, and the arithmetic. -/

open Sys2Proof Sys2Proof.Machine

/-- Decoding an encoded command gives it back, for every command and every operand (R141, R150, R156, R157). -/
def Obligations.EncodeThenDecode : Prop :=
  ∀ i : Instr, decode (encode i) = .ok i

/-- A word that decodes to a command other than NOP is the word the encoder writes (R141, R149, R157). -/
def Obligations.DecodeThenEncode : Prop :=
  ∀ (w : Word) (i : Instr), decode w = .ok i → i ≠ .nop → encode i = w

/-- Five words written out from the encoding table decode to the commands they stand for (R156, R160, R161). -/
def Obligations.SampleWordsDecode : Prop :=
  decode 0x03201041#32
      = .ok (.expand ⟨.rgb, .elem .u8, .rgba, .elem .u8, .curve .none, .mode .const, false, 3, .space .standard⟩)
    ∧ decode 0x00018012#32
      = .ok (.rgbToLab ⟨.rgb, .elem .u8, .rgb, .elem .f32, .curve .srgb, .mode .none, false, 0, .space .standard⟩)
    ∧ decode 0x00010802#32
      = .ok (.gamma ⟨.rgb, .elem .f32, .rgb, .elem .u8, .curve .srgb, .mode .none, false, 0, .space .standard⟩)
    ∧ decode 0x08000852#32
      = .ok (.cmpEq ⟨.rgb, .elem .f32, .rgb, .elem .u8, .curve .none, .mode .none, false, 0, .space .lch⟩)
    ∧ decode 0x00000044#32
      = .ok (.interleave ⟨.rgb, .elem .u8, .rgb, .elem .u8, .curve .none, .mode .none, false, 0, .space .standard⟩)

/-- A step runs the command that the running job latched (R76, R82, R503, R563). -/
def Obligations.StepRunsDecodedCommand : Prop :=
  (∀ (s : State) (j : Job) (i : Instr), s.job = some j →
      (s.env.inputs = [] ∨ ∃ p rest, s.env.inputs = p :: rest ∧ p.after ≠ 0) →
      decode j.args.cmd = .ok i → step s = exec i s)
    ∧ ∀ s : State, s.job = none → s.env.inputs = [] → step s = .next s

/-- A command with bit 23 or one of bits 31:29 set, other than a NOP, ends in ILLEGAL_CMD (R149). What host races cost
is settled as the job ends, in free bytes (DESIGN CHOICE, log entries 2 and 15). -/
def Obligations.ReservedBitsAreIllegal : Prop :=
  ∀ (s : State) (j : Job), Started s j → bits j.args.cmd 0 8 ≠ 0 →
    (bits j.args.cmd 23 1 ≠ 0 ∨ bits j.args.cmd 29 3 ≠ 0) →
    step s = .next (s.settled.errorEntry .illegalCmd j.args.cmd 0#32)

/-- Reserved and custom OP values, and compare without HAS_COMPARE, end in ILLEGAL_CMD; OP 0 in DONE (R150, R154, R331,
R512). What host races cost is settled as the job ends, in free bytes (DESIGN CHOICE, log entries 2 and 15). -/
def Obligations.UnlistedOpcodesAreIllegal : Prop :=
  ∀ (s : State) (j : Job), Started s j →
    let op := bits j.args.cmd 0 8
    ((op = 3 ∨ (3 < op ∧ op < 0x10) ∨ (0x27 < op ∧ op < 0x30) ∨ (0x3D < op ∧ op < 0x40) ∨ (0x4A < op ∧ op < 0x50)
        ∨ 0x52 < op) → step s = .next (s.settled.errorEntry .illegalCmd j.args.cmd 0#32))
    ∧ (0x50 ≤ op → op ≤ 0x52 → s.cfg.hasCompare = false →
        step s = .next (s.settled.errorEntry .illegalCmd j.args.cmd 0#32))
    ∧ (op = 0 → step s = .next s.settled.complete)

/-- NOP ends in DONE and changes nothing else, whatever its other bits hold (R331). What host races cost is settled as
the job ends, in free bytes (DESIGN CHOICE, log entries 2 and 15). -/
def Obligations.NopCompletes : Prop :=
  (∀ (s : State) (j : Job), s.job = some j → s.env.inputs = [] →
      exec .nop s = .next { s.settled with job := none, done := true })
    ∧ (∀ (s : State) (j : Job), Started s j → bits j.args.cmd 0 8 = 0 →
      step s = .next { s.settled with job := none, done := true })
    ∧ ∀ s : State, s.env.doomed = [] → s.settled = s

/-- LINEARIZE, GAMMA and COPY on a single pixel: DONE, PIX_OUT by the curve, and nothing else changed (R208, R210, R211,
R327, R330, R401). What host races cost is settled as the job ends, in free bytes (DESIGN CHOICE, log entries 2 and
15). -/
def Obligations.RgbSideSinglePixel : Prop :=
  ∀ (s : State) (j : Job) (c : Cmd) (f : Fields), Started s j → resolve c = some f → f.imm = true → Plain f →
    AlphaLegal f →
    let a := j.args
    (f.tf ≠ .none → GammaOk a f.tf → exec (.linearize c) s = .next (immDone s (rgbSideImm a f fun w =>
        quant f.dt (lin s.cfg.elem a.gamma f.tf (norm f.st w)))))
    ∧ (f.tf ≠ .none → GammaOk a f.tf → exec (.gamma c) s = .next (immDone s (rgbSideImm a f fun w =>
        quant f.dt (gam s.cfg.elem a.gamma f.tf (norm f.st w)))))
    ∧ (f.tf = .none → exec (.copy c) s = .next (immDone s (rgbSideImm a f (conv f.st f.dt))))

/-- The twelve forward commands on a single pixel: DONE, PIX_OUT by the kernel chain, and nothing else changed (R269,
R324, R327, R330, R332, R359). What host races cost is settled as the job ends, in free bytes (DESIGN CHOICE, log
entries 2 and 15). -/
def Obligations.ForwardSinglePixel : Prop :=
  ∀ (s : State) (j : Job) (c : Cmd) (f : Fields), Started s j → resolve c = some f → f.imm = true →
    CsSide f.dl f.dt → Plain f → AlphaLegal f → GammaOk j.args f.tf →
    let a := j.args
    let e := s.cfg.elem
    (AllPositive a [.xyzScale] → exec (.rgbToXyz c) s = .next (immDone s (forwardImm
        s.cfg a f (rgbToXyz a))))
    ∧ (AllPositive a [.xyzScale, .whiteX, .whiteY, .whiteZ] → exec (.rgbToLab c) s = .next (immDone s (forwardImm
        s.cfg a f fun v => xyzToLab e a (rgbToXyz a v))))
    ∧ (AllPositive a [.xyzScale, .whiteX, .whiteY, .whiteZ] → exec (.rgbToLuv c) s = .next (immDone s (forwardImm
        s.cfg a f fun v => xyzToLuv e a (rgbToXyz a v))))
    ∧ (AllPositive a [.xyzScale, .whiteX, .whiteY, .whiteZ] → exec (.rgbToLch c) s = .next (immDone s (forwardImm
        s.cfg a f fun v => toPolar e (xyzToLuv e a (rgbToXyz a v)))))
    ∧ (exec (.rgbToOklab c) s = .next (immDone s (forwardImm
        s.cfg a f (linToOklab e a))))
    ∧ (exec (.rgbToOklch c) s = .next (immDone s (forwardImm
        s.cfg a f fun v => toPolar e (linToOklab e a v))))
    ∧ (AllPositive a [.xyzScale, .jzLum] → exec (.rgbToJzazbz c) s = .next (immDone s (forwardImm
        s.cfg a f fun v => xyzToJzazbz e a (rgbToXyz a v))))
    ∧ (AllPositive a [.xyzScale, .jzLum] → exec (.rgbToJzczhz c) s = .next (immDone s (forwardImm
        s.cfg a f fun v => toPolar e (xyzToJzazbz e a (rgbToXyz a v)))))
    ∧ (exec (.rgbToHsv c) s = .next (immDone s (forwardImm
        s.cfg a f rgbToHsv)))
    ∧ (exec (.rgbToHsl c) s = .next (immDone s (forwardImm
        s.cfg a f rgbToHsl)))
    ∧ (exec (.rgbToSigmoid c) s = .next (immDone s (forwardImm
        s.cfg a f (mapTri (sigFwd e)))))
    ∧ (AllPositive a [.xyzScale] → exec (.rgbToLalphabeta c) s = .next (immDone s (forwardImm
        s.cfg a f fun v => xyzToLalphabeta e a (rgbToXyz a v))))

/-- The twelve inverse commands on a single pixel: DONE, PIX_OUT by the kernel chain, and nothing else changed (R269,
R325, R326, R327, R330, R333). What host races cost is settled as the job ends, in free bytes (DESIGN CHOICE, log
entries 2 and 15). -/
def Obligations.InverseSinglePixel : Prop :=
  ∀ (s : State) (j : Job) (c : Cmd) (f : Fields), Started s j → resolve c = some f → f.imm = true →
    CsSide f.sl f.st → Plain f → AlphaLegal f → GammaOk j.args f.tf →
    let a := j.args
    let e := s.cfg.elem
    (AllPositive a [.xyzScale] → exec (.xyzToRgb c) s = .next (immDone s (inverseImm
        s.cfg a f (xyzToRgb a))))
    ∧ (AllPositive a [.xyzScale, .whiteX, .whiteY, .whiteZ] → exec (.labToRgb c) s = .next (immDone s (inverseImm
        s.cfg a f fun v => xyzToRgb a (labToXyz a v))))
    ∧ (AllPositive a [.xyzScale, .whiteX, .whiteY, .whiteZ] → exec (.luvToRgb c) s = .next (immDone s (inverseImm
        s.cfg a f fun v => xyzToRgb a (luvToXyz a v))))
    ∧ (AllPositive a [.xyzScale, .whiteX, .whiteY, .whiteZ] → exec (.lchToRgb c) s = .next (immDone s (inverseImm
        s.cfg a f fun v => xyzToRgb a (luvToXyz a (fromPolar e v)))))
    ∧ (exec (.oklabToRgb c) s = .next (immDone s (inverseImm
        s.cfg a f (oklabToLin a))))
    ∧ (exec (.oklchToRgb c) s = .next (immDone s (inverseImm
        s.cfg a f fun v => oklabToLin a (fromPolar e v))))
    ∧ (AllPositive a [.xyzScale, .jzLum] → exec (.jzazbzToRgb c) s = .next (immDone s (inverseImm
        s.cfg a f fun v => xyzToRgb a (jzazbzToXyz e a v))))
    ∧ (AllPositive a [.xyzScale, .jzLum] → exec (.jzczhzToRgb c) s = .next (immDone s (inverseImm
        s.cfg a f fun v => xyzToRgb a (jzazbzToXyz e a (fromPolar e v)))))
    ∧ (exec (.hsvToRgb c) s = .next (immDone s (inverseImm
        s.cfg a f hsvToRgb)))
    ∧ (exec (.hslToRgb c) s = .next (immDone s (inverseImm
        s.cfg a f hslToRgb)))
    ∧ (exec (.sigmoidToRgb c) s = .next (immDone s (inverseImm
        s.cfg a f (mapTri (sigInv e)))))
    ∧ (AllPositive a [.xyzScale] → exec (.lalphabetaToRgb c) s = .next (immDone s (inverseImm
        s.cfg a f fun v => xyzToRgb a (lalphabetaToXyz e a v))))

/-- The fourteen float kernels on a single pixel: DONE, PIX_OUT by the kernel, and nothing else changed (R326, R327,
R330, R358, R359). What host races cost is settled as the job ends, in free bytes (DESIGN CHOICE, log entries 2 and
15). -/
def Obligations.FloatKernelSinglePixel : Prop :=
  ∀ (s : State) (j : Job) (c : Cmd) (f : Fields), Started s j → resolve c = some f → f.imm = true →
    CsSide f.sl f.st → CsSide f.dl f.dt → f.tf = .none → Plain f → AlphaLegal f →
    let a := j.args
    let e := s.cfg.elem
    (AllPositive a [.whiteX, .whiteY, .whiteZ] → exec (.xyzToLab c) s = .next (immDone s (kernelImm
        a f (xyzToLab e a))))
    ∧ (AllPositive a [.whiteX, .whiteY, .whiteZ] → exec (.labToXyz c) s = .next (immDone s (kernelImm
        a f (labToXyz a))))
    ∧ (AllPositive a [.whiteX, .whiteY, .whiteZ] → exec (.xyzToLuv c) s = .next (immDone s (kernelImm
        a f (xyzToLuv e a))))
    ∧ (AllPositive a [.whiteX, .whiteY, .whiteZ] → exec (.luvToXyz c) s = .next (immDone s (kernelImm
        a f (luvToXyz a))))
    ∧ (exec (.luvToLch c) s = .next (immDone s (kernelImm
        a f (toPolar e))))
    ∧ (exec (.lchToLuv c) s = .next (immDone s (kernelImm
        a f (fromPolar e))))
    ∧ (exec (.oklabToOklch c) s = .next (immDone s (kernelImm
        a f (toPolar e))))
    ∧ (exec (.oklchToOklab c) s = .next (immDone s (kernelImm
        a f (fromPolar e))))
    ∧ (AllPositive a [.xyzScale, .jzLum] → exec (.xyzToJzazbz c) s = .next (immDone s (kernelImm
        a f (xyzToJzazbz e a))))
    ∧ (AllPositive a [.xyzScale, .jzLum] → exec (.jzazbzToXyz c) s = .next (immDone s (kernelImm
        a f (jzazbzToXyz e a))))
    ∧ (exec (.jzazbzToJzczhz c) s = .next (immDone s (kernelImm
        a f (toPolar e))))
    ∧ (exec (.jzczhzToJzazbz c) s = .next (immDone s (kernelImm
        a f (fromPolar e))))
    ∧ (exec (.xyzToLalphabeta c) s = .next (immDone s (kernelImm
        a f (xyzToLalphabeta e a))))
    ∧ (exec (.lalphabetaToXyz c) s = .next (immDone s (kernelImm
        a f (lalphabetaToXyz e a))))

/-- EXPAND and STRIP on a single pixel: DONE, the elements moved by position, and nothing else changed (R72, R330, R402,
R403). What host races cost is settled as the job ends, in free bytes (DESIGN CHOICE, log entries 2 and 15). -/
def Obligations.ExpandStripSinglePixel : Prop :=
  ∀ (s : State) (j : Job) (c : Cmd) (f : Fields), Started s j → resolve c = some f → f.imm = true → f.dt = f.st →
    f.tf = .none → f.sp = .standard →
    let v := immElem j.args f.st
    ((f.sl = .rgb ∧ f.dl = .rgba ∨ f.sl = .bgr ∧ f.dl = .bgra) → f.am ≠ .none →
      let n := if f.am = .const then rawAlpha f.st j.args else v 3
      let out := fun k => if k < f.pos then v k else if k = f.pos then n else v (k - 1)
      exec (.expand c) s = .next (immDone s ⟨out 0, out 1, out 2, out 3⟩))
    ∧ ((f.sl = .rgba ∧ f.dl = .rgb ∨ f.sl = .bgra ∧ f.dl = .bgr) → f.am = .none →
      let out := fun k => v (if k < f.pos then k else k + 1)
      exec (.strip c) s = .next (immDone s ⟨out 0, out 1, out 2, 0#32⟩))

/-- PACK565 and PACK1010102 on a single pixel: DONE, the packed word in PIX_OUT0, and nothing else changed (R72, R330,
R406, R407, R409, R411). What host races cost is settled as the job ends, in free bytes (DESIGN CHOICE, log entries
2 and 15). -/
def Obligations.PackSinglePixel : Prop :=
  ∀ (s : State) (j : Job) (c : Cmd) (f : Fields), Started s j → resolve c = some f → f.imm = true → f.dl = .rgb →
    f.dt = .u8 → f.tf = .none → Plain f →
    let v := immRgb j.args f
    (f.st = .u8 → f.am = .none →
      exec (.pack565 c) s = .next (immDone s
        ⟨BitVec.ofNat 32 (v.c0.toNat / 2 ^ 3 * 2 ^ 11 + v.c1.toNat / 2 ^ 2 * 2 ^ 5 + v.c2.toNat / 2 ^ 3),
          0#32, 0#32, 0#32⟩))
    ∧ (f.st ≠ .f32 → (f.am = .pass ∧ hasAlpha f.sl = true ∨ f.am = .const) →
      let ten := fun w : Word => if f.st = .u8 then w.toNat * 2 ^ 2 else w.toNat / 2 ^ 6
      let al := if f.am = .const then rawAlpha f.st j.args else immElem j.args f.st 3
      let two := if f.st = .u8 then al.toNat / 2 ^ 6 else al.toNat / 2 ^ 14
      exec (.pack1010102 c) s = .next (immDone s
        ⟨BitVec.ofNat 32 (ten v.c0 + ten v.c1 * 2 ^ 10 + ten v.c2 * 2 ^ 20 + two * 2 ^ 30), 0#32, 0#32, 0#32⟩))

/-- The two 565 unpacks on a single pixel: DONE, the fields shifted or scaled, and nothing else changed (R330, R406,
R408, R410). What host races cost is settled as the job ends, in free bytes (DESIGN CHOICE, log entries 2 and 15). -/
def Obligations.Unpack565SinglePixel : Prop :=
  ∀ (s : State) (j : Job) (c : Cmd) (f : Fields), Started s j → resolve c = some f → f.imm = true → f.sl = .rgb →
    f.st = .u8 → f.tf = .none → Plain f → f.am = (if hasAlpha f.dl then .const else .none) →
    let w := j.args.pixIn.p0.toNat % 2 ^ 16
    let al := if hasAlpha f.dl then rawAlpha f.dt j.args else 0#32
    let up := fun n k : Nat => BitVec.ofNat 32 (k * 2 ^ ((if f.dt = .u8 then 8 else 16) - n))
    let mul := fun (q : F32) (k : Nat) => quant f.dt (fmul (fOfNat k) q)
    (f.dt ≠ .f32 → exec (.unpack565Shifted c) s = .next (immDone s
        (namedQuad f.dl (up 5 (w / 2 ^ 11)) (up 6 (w / 2 ^ 5 % 2 ^ 6)) (up 5 (w % 2 ^ 5)) al)))
    ∧ exec (.unpack565Scaled c) s = .next (immDone s
        (namedQuad f.dl (mul k31Inv (w / 2 ^ 11)) (mul k63Inv (w / 2 ^ 5 % 2 ^ 6)) (mul k31Inv (w % 2 ^ 5)) al))

/-- The two 1010102 unpacks on a single pixel: DONE, the fields shifted or scaled, and nothing else changed (R330, R409,
R412, R413). What host races cost is settled as the job ends, in free bytes (DESIGN CHOICE, log entries 2 and 15). -/
def Obligations.Unpack1010102SinglePixel : Prop :=
  ∀ (s : State) (j : Job) (c : Cmd) (f : Fields), Started s j → resolve c = some f → f.imm = true → f.sl = .rgb →
    f.st = .u8 → f.tf = .none → Plain f → (f.am = .none ↔ hasAlpha f.dl = false) →
    let w := j.args.pixIn.p0.toNat
    let r := w % 2 ^ 10
    let g := w / 2 ^ 10 % 2 ^ 10
    let b := w / 2 ^ 20 % 2 ^ 10
    let al := fun p : Word => if f.am = .pass then p else if f.am = .const then rawAlpha f.dt j.args else 0#32
    let ten := fun k : Nat => BitVec.ofNat 32 (if f.dt = .u8 then k / 2 ^ 2 else k * 2 ^ 6)
    let mul := fun (q : F32) (k : Nat) => quant f.dt (fmul (fOfNat k) q)
    (f.dt ≠ .f32 → exec (.unpack1010102Shifted c) s = .next (immDone s
        (namedQuad f.dl (ten r) (ten g) (ten b)
          (al (BitVec.ofNat 32 (w / 2 ^ 30 * (if f.dt = .u8 then 2 ^ 6 else 2 ^ 14)))))))
    ∧ exec (.unpack1010102Scaled c) s = .next (immDone s
        (namedQuad f.dl (mul k1023Inv r) (mul k1023Inv g) (mul k1023Inv b) (al (mul k3Inv (w / 2 ^ 30)))))

/-- DEINTERLEAVE and INTERLEAVE of one pixel: every plane element copied raw, DONE, and nothing else changed (R64, R152,
R404, R405). What host races cost is settled as the job ends, in free bytes (DESIGN CHOICE, log entries 2 and 15). -/
def Obligations.PlanarOnePixelJob : Prop :=
  ∀ (s : State) (j : Job) (c : Cmd) (f : Fields), Started s j → s.env.tape = [] →
    FaultFree s.cfg → j.args.width = 1#32 → j.args.height = 1#32 → resolve c = some f → f.imm = false →
    f.dl = f.sl → f.dt = f.st → f.tf = .none → Plain f → f.am = .none →
    let src := pairAddr s.cfg.addrW j.args.srcLo j.args.srcHi
    let dst := pairAddr s.cfg.addrW j.args.dstLo j.args.dstHi
    let es := elemSize f.st
    let pp := j.args.planePitch.toNat
    (addressErr deinterleaveOp (ctxOf s j f) = none →
      exec (.deinterleave c) s = .next (State.complete (State.settled
        (((List.range (nch f.sl)).map fun k => ⟨dst + k * pp, es, s.mem.read ⟨src + k * es, es⟩⟩).foldl
          State.storeElem s))))
    ∧ (addressErr interleaveOp (ctxOf s j f) = none →
      exec (.interleave c) s = .next (State.complete (State.settled
        (((List.range (nch f.sl)).map fun k => ⟨dst + k * es, es, s.mem.read ⟨src + k * pp, es⟩⟩).foldl
          State.storeElem s))))

/-- DIST_EUCLID, DIST_TAXICAB and CMP_EQ of one pixel: the result stored at DST, DONE, and nothing else changed (R450,
R451, R452, R453, R454). What host races cost is settled as the job ends, in free bytes (DESIGN CHOICE, log entries
2 and 15). -/
def Obligations.CompareOnePixelJob : Prop :=
  ∀ (s : State) (j : Job) (c : Cmd) (f : Fields), Started s j → s.env.tape = [] →
    FaultFree s.cfg → s.cfg.hasCompare = true → j.args.width = 1#32 → j.args.height = 1#32 → resolve c = some f →
    f.imm = false → CsSide f.sl f.st → f.dl = .rgb → f.tf = .none → f.pos = 0 → f.am = .none →
    let at3 := fun p : Nat => (⟨s.mem.read ⟨p, 4⟩, s.mem.read ⟨p + 4, 4⟩, s.mem.read ⟨p + 8, 4⟩⟩ : Tri)
    let a := at3 (pairAddr s.cfg.addrW j.args.srcLo j.args.srcHi)
    let b := at3 (pairAddr s.cfg.addrW j.args.src2Lo j.args.src2Hi)
    let dst := pairAddr s.cfg.addrW j.args.dstLo j.args.dstHi
    let d0 := fsub a.c0 b.c0
    let d1 := fsub a.c1 b.c1
    let d2 := fsub a.c2 b.c2
    (f.dt = .f32 → f.sp = .standard → addressErr distEuclidOp (ctxOf s j f) = none →
      exec (.distEuclid c) s = .next (State.complete (State.settled (s.storeElem
        ⟨dst, 4, fsqrt (fadd (fadd (fmul d0 d0) (fmul d1 d1)) (fmul d2 d2))⟩))))
    ∧ (f.dt = .f32 → f.sp = .standard → addressErr distTaxicabOp (ctxOf s j f) = none →
      exec (.distTaxicab c) s = .next (State.complete (State.settled (s.storeElem
        ⟨dst, 4, fadd (fadd (fabs d0) (fabs d1)) (fabs d2)⟩))))
    ∧ (f.dt = .u8 → addressErr cmpEqOp (ctxOf s j f) = none →
      exec (.cmpEq c) s = .next (State.complete (State.settled (s.storeElem
        ⟨dst, 1, if equalIn f.sp a b then 1#32 else 0#32⟩))))

/-- Every command as a 1x1 buffer job: its elements stored, the table as R202 says, DONE, nothing else changed (R202,
R320, R321, R329, R522). What host races cost is settled as the job ends, in free bytes (DESIGN CHOICE, log entries
2 and 15). -/
def Obligations.OnePixelBufferJob : Prop :=
  ∀ (i : Instr) (op : JobOp) (c : Cmd) (f : Fields) (s : State) (j : Job), jobOf i = some (op, c) → Started s j →
    resolve c = some f →
    f.imm = false → s.env.tape = [] → FaultFree s.cfg → j.args.width = 1#32 → j.args.height = 1#32 →
    let x := ctxOf s j f
    firstErr op x = none →
    exec i s = .next (State.complete (State.settled
      ((pixelStores op x 0 0 (memElems op x s.mem 0 0)).foldl State.storeElem { s with lut := lutAfter op x s.lut })))

/-- A buffer job that ends in DONE has written every destination element with its value, and nothing else (R109, R110,
R111, R112, R115, R320, R375, R518). What host races cost is settled as the job ends, in free bytes (DESIGN CHOICE,
log entries 2 and 15). -/
def Obligations.BufferJobWritesEveryElement : Prop :=
  ∀ (i : Instr) (op : JobOp) (c : Cmd) (f : Fields) (s : State) (j : Job), jobOf i = some (op, c) → Started s j →
    resolve c = some f →
    s.mem.wf = true → FaultFree s.cfg →
    let x := ctxOf s j f
    addressed x = true → firstErr op x = none →
    (∀ v, (op.body x v).length = (op.dstElems x).length)
    ∧ ∃ t, exec i s = .next t ∧ t.job = none ∧ t.done = true ∧ t.err = s.err ∧ t.regs = s.regs ∧ t.pixOut = s.pixOut
      ∧ t.errInfoLo = s.errInfoLo ∧ t.errInfoHi = s.errInfoHi ∧ t.lut = lutAfter op x s.lut
      ∧ (∀ (q y k : Nat) (e : ElemRef) (v : Word), q < j.args.width.toNat → y < j.args.height.toNat → (op.dstElems x)[k]? = some e →
          (op.body x (memElems op x s.mem q y))[k]? = some v → (∀ b, (e.access q y).covers b = true → ¬Raced s b) →
          t.mem.read (e.access q y) = lowBytes e.buf.unit v)
      ∧ ∀ a, OutsideDst op x a → ¬Raced s a → t.mem.byte a = s.mem.byte a

/-- A buffer job with no pixels ends in DONE and changes nothing else, whatever its addresses (R511, R522, R539). What
host races cost is settled as the job ends, in free bytes (DESIGN CHOICE, log entries 2 and 15). -/
def Obligations.ZeroSizeJobCompletes : Prop :=
  ∀ (i : Instr) (op : JobOp) (c : Cmd) (f : Fields) (s : State) (j : Job), jobOf i = some (op, c) → Started s j →
    resolve c = some f →
    f.imm = false → (j.args.width = 0#32 ∨ j.args.height = 0#32) →
    let x := ctxOf s j f
    op.legal x = true → (∀ p ∈ checkedParams op x, isPosFinite (p.value j.args) = true) → op.alpha x = true →
    exec i s = .next { s.settled with job := none, done := true }

/-- A reserved code, or fields that break R151 other than in the AMODE column, end in ILLEGAL_CMD with CMD saved (R151,
R153, R159, R512, R520, R527). The model takes AMODE 1 or 2 on a compare command as a break of the AMODE column
alone, so ALPHA, against the list of R450 (DEDUCED, log entry 6). What host races cost is settled as the job ends,
in free bytes (DESIGN CHOICE, log entries 2 and 15). -/
def Obligations.IllegalFieldsAreRefused : Prop :=
  (∀ (i : Instr) (op : JobOp) (c : Cmd) (s : State) (j : Job), jobOf i = some (op, c) → Started s j →
    (c.wellFormed = false ∨ ∃ f, resolve c = some f ∧ ¬FieldsLegal i.opcode s.cfg.hasCompare f) →
    exec i s = .next { s.settled with
      job := none
      err := some .illegalCmd
      errInfoLo := j.args.cmd
      errInfoHi := 0#32 })
    ∧ ∀ (i : Instr) (op : JobOp) (c : Cmd) (x : JobCtx), jobOf i = some (op, c) → resolve c = some x.f →
      (op.legal x = true ↔ FieldsLegal i.opcode x.cfg.hasCompare x.f)

/-- Each command checks the float registers that the table of R359 lists for it (R359, R513). -/
def Obligations.CheckedRegistersTable : Prop :=
  ∀ (i : Instr) (op : JobOp) (c : Cmd) (x : JobCtx), jobOf i = some (op, c) →
    checkedParams op x = (if x.f.tf = .power then [.gamma] else []) ++ paramTable i
      ∧ (checkedParams op x).Pairwise fun p q => p.offset < q.offset

/-- The first checked float register that is not finite and positive ends the job in PARAM with offset and value (R359,
R513, R520, R527). What host races cost is settled as the job ends, in free bytes (DESIGN CHOICE, log entries 2 and
15). -/
def Obligations.BadRegisterIsParam : Prop :=
  ∀ (i : Instr) (op : JobOp) (c : Cmd) (f : Fields) (s : State) (j : Job), jobOf i = some (op, c) → Started s j →
    resolve c = some f →
    let x := ctxOf s j f
    op.legal x = true → ∀ pre p post, checkedParams op x = pre ++ p :: post →
    (∀ q ∈ pre, isPosFinite (q.value j.args) = true) → isPosFinite (p.value j.args) = false →
    exec i s = .next { s.settled with
      job := none
      err := some .param
      errInfoLo := BitVec.ofNat 32 p.offset
      errInfoHi := p.value j.args }

/-- An AMODE outside its column ends the job in ALPHA with CMD saved, compare commands included (R151, R327, R514, R520,
R527). The model takes AMODE 1 or 2 on a compare command as a break of the AMODE column alone, so ALPHA, against the
list of R450 (DEDUCED, log entry 6). What host races cost is settled as the job ends, in free bytes (DESIGN CHOICE,
log entries 2 and 15). -/
def Obligations.BadAmodeIsAlpha : Prop :=
  ∀ (i : Instr) (op : JobOp) (c : Cmd) (f : Fields) (s : State) (j : Job), jobOf i = some (op, c) → Started s j →
    resolve c = some f →
    let x := ctxOf s j f
    op.legal x = true → (∀ p ∈ checkedParams op x, isPosFinite (p.value j.args) = true) →
    (¬AmodeLegal i.opcode f → exec i s = .next { s.settled with
        job := none
        err := some .alpha
        errInfoLo := j.args.cmd
        errInfoHi := 0#32 })
    ∧ (op.alpha x = true ↔ AmodeLegal i.opcode f)

/-- The first misaligned base or stride ends a buffer job in ALIGN with the argument id and which (R107, R511, R515,
R527). What host races cost is settled as the job ends, in free bytes (DESIGN CHOICE, log entries 2 and 15). -/
def Obligations.MisalignedArgumentIsAlign : Prop :=
  ∀ (i : Instr) (op : JobOp) (c : Cmd) (f : Fields) (s : State) (j : Job), jobOf i = some (op, c) → Started s j →
    resolve c = some f →
    let x := ctxOf s j f
    op.legal x = true → (∀ p ∈ checkedParams op x, isPosFinite (p.value j.args) = true) →
    op.alpha x = true → addressed x = true → ∀ pre b post, arguments op x = pre ++ b :: post →
    (∀ d ∈ pre, d.base % d.unit = 0 ∧ d.stride % d.unit = 0) →
    (b.base % b.unit ≠ 0 → exec i s = .next (s.settled.errorEntry .align (BitVec.ofNat 32 b.id) 0#32))
    ∧ (b.base % b.unit = 0 → b.stride % b.unit ≠ 0 →
        exec i s = .next (s.settled.errorEntry .align (BitVec.ofNat 32 (b.id + 2 ^ 8)) 0#32))

/-- The first stride below WIDTH x bpp ends an aligned buffer job in STRIDE with the argument id (R106, R511, R516,
R527). What host races cost is settled as the job ends, in free bytes (DESIGN CHOICE, log entries 2 and 15). -/
def Obligations.ShortStrideIsStride : Prop :=
  ∀ (i : Instr) (op : JobOp) (c : Cmd) (f : Fields) (s : State) (j : Job), jobOf i = some (op, c) → Started s j →
    resolve c = some f →
    let x := ctxOf s j f
    op.legal x = true → (∀ p ∈ checkedParams op x, isPosFinite (p.value j.args) = true) →
    op.alpha x = true → addressed x = true → ∀ pre b post, arguments op x = pre ++ b :: post →
    alignErr (arguments op x) = none →
    (∀ d ∈ pre, j.args.width.toNat * d.bpp ≤ d.stride) → b.stride < j.args.width.toNat * b.bpp →
    exec i s = .next (s.settled.errorEntry .stride (BitVec.ofNat 32 b.id) 0#32)

/-- The first span past the address space ends a buffer job in RANGE with the argument id (R8, R106, R511, R517, R527).
What host races cost is settled as the job ends, in free bytes (DESIGN CHOICE, log entries 2 and 15). -/
def Obligations.SpanPastSpaceIsRange : Prop :=
  ∀ (i : Instr) (op : JobOp) (c : Cmd) (f : Fields) (s : State) (j : Job), jobOf i = some (op, c) → Started s j →
    resolve c = some f →
    let x := ctxOf s j f
    op.legal x = true → (∀ p ∈ checkedParams op x, isPosFinite (p.value j.args) = true) →
    op.alpha x = true → addressed x = true → ∀ pre b post, arguments op x = pre ++ b :: post →
    alignErr (arguments op x) = none →
    strideErr j.args.width.toNat (arguments op x) = none →
    let last := fun d : BufArg =>
      d.base + (j.args.height.toNat - 1) * d.stride + j.args.width.toNat * d.bpp - 1
    (∀ d ∈ pre, last d ≤ spaceSize s.cfg.addrW - 1) → spaceSize s.cfg.addrW - 1 < last b →
    exec i s = .next (s.settled.errorEntry .range (BitVec.ofNat 32 b.id) 0#32)

/-- A destination that shares a byte with an earlier argument, not in place, ends the job in OVERLAP with both ids
(R106, R511, R518, R527). What host races cost is settled as the job ends, in free bytes (DESIGN CHOICE, log entries
2 and 15). -/
def Obligations.OverlapIsRefused : Prop :=
  (∀ (w h : Nat) (b d : BufArg), footprintsMeet w h b d = true ↔ ∃ a, InFootprint w h b a ∧ InFootprint w h d a)
    ∧ ∀ (i : Instr) (op : JobOp) (c : Cmd) (f : Fields) (s : State) (j : Job), jobOf i = some (op, c) → Started s j →
    resolve c = some f →
    let x := ctxOf s j f
    op.legal x = true → (∀ p ∈ checkedParams op x, isPosFinite (p.value j.args) = true) →
    op.alpha x = true → addressed x = true → alignErr (arguments op x) = none →
    let w := j.args.width.toNat
    let h := j.args.height.toNat
    strideErr w (arguments op x) = none → rangeErr (spaceSize s.cfg.addrW) w h (arguments op x) = none →
    ∀ dpre d dpost pre y post, op.dests x = dpre ++ d :: dpost → op.sources x ++ dpre = pre ++ y :: post →
    let clash := fun b : BufArg =>
      (∃ a, InFootprint w h d a ∧ InFootprint w h b a)
        ∧ ¬(d.id = 2 ∧ b.id = 1 ∧ d.base = b.base ∧ d.stride = b.stride ∧ d.bpp = b.bpp)
    overlapErr w h (op.sources x) dpre = none → (∀ b ∈ pre, ¬clash b) → clash y →
    exec i s = .next (s.settled.errorEntry .overlap (BitVec.ofNat 32 (d.id + y.id * 2 ^ 8)) 0#32)

/-- A faulting read or write, of any pixel of a job of any size, ends it in BUS with its address, and what was stored
stays (R117, R202, R375, R519, R520, R527). Which elements a command reads is log entry 16 (DEDUCED). What host
races cost is settled as the job ends, in free bytes (DESIGN CHOICE, log entries 2 and 15). -/
def Obligations.BusFaultEndsJob : Prop :=
  (∀ (i : Instr) (op : JobOp) (c : Cmd) (f : Fields) (s : State) (j : Job), jobOf i = some (op, c) → resolve c = some f →
    s.job = some j → j.phase = .traverse → s.env.inputs = [] → ∀ px others,
    pick (s.env.tape.headD (0, 0)).1 j.cursor = some (px, others) →
    let u : State := { s with env := { s.env with tape := s.env.tape.tail } }
    let stop := fun a : Nat => u.settled.errorEntry .bus (BitVec.ofNat 32 a) (BitVec.ofNat 32 (a / 2 ^ 32))
    let n := (s.env.tape.headD (0, 0)).2
    (∀ todo got k d rest, px.stage = .reading todo got → pick n todo = some ((k, d), rest) →
      busFault s.cfg d false = true → exec i s = .next (stop d.addr))
    ∧ ∀ left w rest, px.stage = .writing left → pick n left = some (w, rest) →
      busFault s.cfg w.access true = true → exec i s = .next (stop w.addr))
    ∧ ∀ (i : Instr) (op : JobOp) (c : Cmd) (f : Fields) (s : State) (j : Job), jobOf i = some (op, c) → Started s j →
    resolve c = some f →
    let x := ctxOf s j f
    addressed x = true → firstErr op x = none →
    (∀ t, s.mem.wf = true → s.err = none → exec i s = .next t → t.err = some .bus →
      t.done = s.done ∧ t.job = none ∧ t.lut = lutAfter op x s.lut
      ∧ (∃ q y e w, q < j.args.width.toNat ∧ y < j.args.height.toNat
          ∧ (w = false ∧ e ∈ op.srcElems x ∨ w = true ∧ e ∈ op.dstElems x) ∧ busFault s.cfg (e.access q y) w = true
          ∧ t.errInfoLo = BitVec.ofNat 32 (e.addr q y) ∧ t.errInfoHi = BitVec.ofNat 32 (e.addr q y / 2 ^ 32))
      ∧ ∀ (q y k : Nat) (e : ElemRef) (v : Word), q < j.args.width.toNat → y < j.args.height.toNat →
          (op.dstElems x)[k]? = some e → (op.body x (memElems op x s.mem q y))[k]? = some v →
          (∀ b, (e.access q y).covers b = true → ¬Raced s b) →
          t.mem.read (e.access q y) = lowBytes e.buf.unit v ∨ t.mem.read (e.access q y) = s.mem.read (e.access q y))
    ∧ (s.env.tape = [] → j.args.width = 1#32 → j.args.height = 1#32 →
      let stop := fun n a : Nat => State.errorEntry (State.settled
        (((pixelStores op x 0 0 (memElems op x s.mem 0 0)).take n).foldl State.storeElem
          { s with lut := lutAfter op x s.lut })) .bus (BitVec.ofNat 32 a) (BitVec.ofNat 32 (a / 2 ^ 32))
      (∀ before e rest, op.srcElems x = before ++ e :: rest →
        (∀ d ∈ before, busFault s.cfg (d.access 0 0) false = false) → busFault s.cfg (e.access 0 0) false = true →
        exec i s = .next (stop 0 (e.addr 0 0)))
      ∧ ∀ before e rest, op.dstElems x = before ++ e :: rest →
        (∀ d ∈ op.srcElems x, busFault s.cfg (d.access 0 0) false = false) →
        (∀ d ∈ before, busFault s.cfg (d.access 0 0) true = false) → busFault s.cfg (e.access 0 0) true = true →
        exec i s = .next (stop before.length (e.addr 0 0)))

/-- An access that falls in the register window faults when the engine knows where the window is (R117, R123, R519). -/
def Obligations.WindowAccessFaults : Prop :=
  ∀ (cfg : Config) (b : Nat) (c : Access) (w : Bool), cfg.windowBase = some b → 0 < c.size →
    (c.addr < b + 4096 → b < c.addr + c.size → busFault cfg c w = true)
    ∧ (cfg.busFaults = [] → c.addr + c.size ≤ spaceSize cfg.addrW → (b + 4096 ≤ c.addr ∨ c.addr + c.size ≤ b) →
        busFault cfg c w = false)

/-- No command writes a register of the host, and PIX_OUT changes only when an IMM job ends in DONE (R45, R72, R77,
R520, R522). -/
def Obligations.CommandsKeepRegisters : Prop :=
  ∀ (i : Instr) (s t : State), exec i s = .next t →
    (t.cfg = s.cfg ∧ t.ieDone = s.ieDone ∧ t.ieErr = s.ieErr ∧ t.regs = s.regs ∧ t.env.readData = s.env.readData
      ∧ t.env.owning = s.env.owning ∧ t.env.plan = s.env.plan ∧ t.env.dests = s.env.dests
      ∧ (∀ p ∈ t.env.past, p ∈ s.env.past) ∧ t.env.pastDests = s.env.pastDests ∧ t.env.doomed = s.env.doomed
      ∧ t.env.dirty = s.env.dirty ∧ t.env.stale = s.env.stale)
    ∧ (t.pixOut = s.pixOut
      ∨ (∃ c f, i.cmd? = some c ∧ resolve c = some f ∧ f.imm = true) ∧ t.job = none ∧ t.done = true)

/-- No command changes a byte outside its destination elements; an IMM, zero-size or refused job changes none (R105,
R109, R330, R519, R520). What host races cost is settled as the job ends, in free bytes (DESIGN CHOICE, log entries
2 and 15). -/
def Obligations.CommandsWriteOnlyTheirDestination : Prop :=
  ∀ (i : Instr) (op : JobOp) (c : Cmd) (f : Fields) (s : State) (j : Job), jobOf i = some (op, c) → Started s j →
    resolve c = some f →
    ∀ t, exec i s = .next t →
    let x := ctxOf s j f
    (∀ a, OutsideDst op x a → ¬Raced s a → t.mem.byte a = s.mem.byte a)
    ∧ ((addressed x = false ∨ firstErr op x ≠ none) → t.mem = s.settled.mem)

/-- The lookup table is filled by a U8 linearizing job that needs it, and by no other job (R200, R202, R510). -/
def Obligations.TableIsFilledAsNeeded : Prop :=
  ∀ (i : Instr) (op : JobOp) (c : Cmd) (f : Fields) (s : State) (j : Job), jobOf i = some (op, c) → Started s j →
    resolve c = some f →
    ∀ t, exec i s = .next t →
    let x := ctxOf s j f
    (addressed x = true → firstErr op x = none → t.lut = lutAfter op x s.lut)
    ∧ ((addressed x = false ∨ firstErr op x ≠ none) → t.lut = s.lut)
    ∧ (needsFill op x s.lut = true ↔
        (i.opcode = 1 ∨ (0x10 ≤ i.opcode ∧ i.opcode ≤ 0x26 ∧ i.opcode % 2 = 0)) ∧ f.st = .u8 ∧ f.tf ≠ .none
          ∧ (s.lut.valid = false ∨ s.lut.tf ≠ f.tf ∨ (f.tf = .power ∧ s.lut.gamma ≠ j.args.gamma)))

/-- An error of codes 1 to 7 changes nothing but STATUS, ERR_INFO and the job record (R510, R520, R521). What host races
cost is settled as the job ends, in free bytes (DESIGN CHOICE, log entries 2 and 15). -/
def Obligations.CheckErrorsArePrecise : Prop :=
  ∀ (i : Instr) (s : State) (j : Job) (t : State) (e : ErrCode), Started s j → s.err = none → exec i s = .next t →
    t.err = some e → e ≠ .bus → t = s.settled.errorEntry e t.errInfoLo t.errInfoHi

/-- Every job ends, in exactly one of DONE and ERR with a code (R54, R503, R510, R520, R522, R534, R585). -/
def Obligations.EveryJobEnds : Prop :=
  ∀ (i : Instr) (s : State), s.job ≠ none → s.env.inputs = [] →
    ∃ t, exec i s = .next t ∧ t.job = none
      ∧ (s.done = false → s.err = none →
        (t.done = true ∧ t.err = none) ∨ (t.done = false ∧ ∃ e, t.err = some e ∧ 1 ≤ e.code ∧ e.code ≤ 8))

/-- The reset state meets the invariant (R83, R560). -/
def Obligations.ResetMeetsInvariant : Prop :=
  Inv State.reset

/-- Every step keeps the invariant: canonical memory, BUSY against DONE and ERR, ERR_INFO, the exact table (R8, R54,
R70, R200, R523). -/
def Obligations.StepKeepsInvariant : Prop :=
  ∀ s t : State, Inv s → step s = .next t → Inv t

/-- No command word is ever refused, and no step faults while the host stays in its address space (R8, R154, R529,
R534). -/
def Obligations.NoStepStops : Prop :=
  ∀ s : State, HostInSpace s → ∃ t, step s = .next t ∧ HostInSpace t

/-- The number of lanes and row engines changes no result of any command (R15, R374). -/
def Obligations.LanesAreInvisible : Prop :=
  ∀ (i : Instr) (s : State) (l : Lanes) (n : Nat),
    let v := fun t : State => { t with cfg := { t.cfg with lanes := l, rowEngines := n } }
    ∃ t, exec i s = .next t ∧ exec i (v s) = .next (v t)

/-- A plain register reads back what the host wrote, and no other register changes (R8, R44, R59, R61, R73). -/
def Obligations.RegistersReadBack : Prop :=
  ∀ (s : State) (off : Nat) (v : Word),
    (isPlainRegister s.cfg.addrW off →
      let t := s.regWrite off 4 v
      t.readReg off = v ∧ (∀ o, o < 4096 → o % 4 = 0 → o ≠ off → t.readReg o = s.readReg o)
        ∧ ∃ r, t = { s with regs := r })
    ∧ (s.cfg.addrW = .w32 → off ∈ hiOffsets → (s.regWrite off 4 v).readReg off = 0#32)

/-- A write to a read-only register has no effect, and a read of a register changes no register (R43). -/
def Obligations.ReadOnlyRegistersTakeNoWrite : Prop :=
  (∀ (s : State) (off : Nat) (v : Word),
      off ∈ [0x000, 0x004, 0x070, 0x074, 0x090, 0x094, 0x098, 0x09C] → s.regWrite off 4 v = s)
    ∧ ∀ (s : State) (off width : Nat), ∃ e, s.regRead off width = { s with env := e }

/-- A reserved offset of the window reads 0 and ignores writes (R42, R44, R73). -/
def Obligations.ReservedOffsetsReadZero : Prop :=
  ∀ (s : State) (off : Nat) (v : Word), off % 4 = 0 → off < 4096 → ¬isBankOffset off →
    off ∉ plainOffsets ++ hiOffsets ++ [0x000, 0x004, 0x008, 0x00C, 0x070, 0x074, 0x090, 0x094, 0x098, 0x09C] →
    s.readReg off = 0#32 ∧ s.regWrite off 4 v = s

/-- A register access that is not an aligned 32-bit one is ignored: no write, and a read of 0 (R41). -/
def Obligations.NarrowAccessIsIgnored : Prop :=
  ∀ (s : State) (off width : Nat) (v : Word), (width ≠ 4 ∨ off % 4 ≠ 0) →
    s.regWrite off width v = s
      ∧ s.regRead off width = { s with env := { s.env with readData := 0#32 } }

/-- STATUS reads BUSY, DONE, ERR, IRQ, ERR_CODE, LUT_VALID and LUT_TF at their bits and 0 elsewhere (R53, R54, R55, R56,
R57, R58, R510). BUSY is the presence of the job record, and ERR with its code one field (DEDUCED, log entry 28). -/
def Obligations.StatusWordFields : Prop :=
  ∀ s : State,
    let w := s.readReg 0x00C
    w.getLsbD 0 = s.job.isSome ∧ w.getLsbD 1 = s.done ∧ w.getLsbD 2 = s.err.isSome
      ∧ w.getLsbD 3 = ((s.done && s.ieDone) || (s.err.isSome && s.ieErr))
      ∧ bits w 8 4 = (match s.err with | none => 0 | some e => e.code)
      ∧ w.getLsbD 16 = s.lut.valid ∧ bits w 20 4 = (if s.lut.valid then s.lut.tf.code else 0)
      ∧ bits w 4 4 = 0 ∧ bits w 12 4 = 0 ∧ bits w 17 3 = 0 ∧ bits w 24 8 = 0

/-- FEATURES reports the implementation parameters at their bits (R47). -/
def Obligations.FeaturesWordFields : Prop :=
  (∀ s : State,
      let w := s.readReg 0x004
      w.getLsbD 0 = true ∧ w.getLsbD 1 = s.cfg.hasCompare ∧ w.getLsbD 2 = decide (s.cfg.addrW = .w64)
        ∧ w.getLsbD 3 = false
        ∧ bits w 4 4 = (match s.cfg.lanes with | .one => 0 | .four => 2 | .eight => 3)
        ∧ bits w 8 8 = min s.cfg.rowEngines 255 ∧ bits w 16 16 = 0)
    ∧ State.reset.readReg 0x004 = 0x00000127#32

/-- A CTRL write resets alone, or sets the enables, then invalidates the table, then starts a job (R48, R49, R50, R51). -/
def Obligations.CtrlWriteOrder : Prop :=
  ∀ (s : State) (v : Word),
    let t := s.regWrite 0x008 4 v
    (v.getLsbD 1 = true → t = s.resetBlock)
    ∧ (v.getLsbD 1 = false →
        t.ieDone = v.getLsbD 8 ∧ t.ieErr = v.getLsbD 9
          ∧ t.lut.valid = (s.lut.valid && !(v.getLsbD 2 && s.job.isNone))
          ∧ (v.getLsbD 0 = true → s.job = none → s.err = none → t.job = some ⟨s.regs, .check, []⟩ ∧ t.done = false)
          ∧ (v.getLsbD 0 = false → t.job = s.job ∧ t.done = s.done)
          ∧ t.err = s.err ∧ t.regs = s.regs ∧ t.mem = s.mem ∧ t.pixOut = s.pixOut)
    ∧ t.readReg 0x008 = (if v.getLsbD 1 then 0#32 else v &&& 0x300#32)

/-- START is ignored while BUSY or ERR is 1, else it latches the registers, clears DONE and sets BUSY (R501). -/
def Obligations.StartIsRefusedWhileBusyOrErr : Prop :=
  (∀ s : State, (s.job ≠ none ∨ s.err ≠ none) → s.start = s)
    ∧ (∀ s : State, s.job = none → s.err = none → ∃ e, s.start
        = { s with done := false, job := some ⟨s.regs, .check, []⟩, env := e } ∧ s.start.busy = true)
    ∧ (∀ (s : State) (v : Word), v.getLsbD 0 = true → v.getLsbD 1 = false →
        let u : State := { s with ieDone := v.getLsbD 8, ieErr := v.getLsbD 9 }
        s.regWrite 0x008 4 v = State.start (if v.getLsbD 2 then u.lutInvalidate else u))
    ∧ ∀ (s : State) (v : Word), v.getLsbD 0 = false →
        (s.regWrite 0x008 4 v).job = if v.getLsbD 1 then none else s.job

/-- A STATUS write clears DONE through bit 1 and ERR, ERR_CODE and ERR_INFO through bit 2, and does nothing else (R524). -/
def Obligations.AcknowledgeClearsBits : Prop :=
  ∀ (s : State) (v : Word),
    s.regWrite 0x00C 4 v = { s with
        done := if v.getLsbD 1 then false else s.done
        err := if v.getLsbD 2 then none else s.err
        errInfoLo := if v.getLsbD 2 then 0#32 else s.errInfoLo
        errInfoHi := if v.getLsbD 2 then 0#32 else s.errInfoHi }
      ∧ (Inv s → s.job ≠ none → s.regWrite 0x00C 4 v = s)

/-- A register write during a job is held for the next START and does not affect the running job (R77). -/
def Obligations.WritesDuringJobDoNotAffectIt : Prop :=
  ∀ (s : State) (off : Nat) (v : Word), s.job ≠ none → off % 4 = 0 → off < 4096 → off ≠ 0x008 → off ≠ 0x00C →
    let t := s.regWrite off 4 v
    (∃ r, t = { s with regs := r }) ∧ t.job = s.job ∧ (isPlainRegister s.cfg.addrW off → t.readReg off = v)
      ∧ ∀ u : State, u.regs = t.regs → u.job = none → u.err = none → u.start.job = some ⟨t.regs, .check, []⟩

/-- SRESET and the power-on reset leave every register at its reset value and cut a running job, without touching memory
(R44, R74, R83, R560, R561, R562). What host races cost is settled as the job ends, in free bytes (DESIGN CHOICE,
log entries 2 and 15). -/
def Obligations.ResetState : Prop :=
  ∀ s : State,
    let afterReset := fun t : State =>
      t.job = none ∧ t.ieDone = false ∧ t.ieErr = false ∧ t.readReg 0x008 = 0#32 ∧ t.readReg 0x00C = 0#32
        ∧ t.lut.valid = false ∧ t.cfg = s.cfg
        ∧ (∀ off, off < 4096 → off ≠ 0x004 → t.readReg off = State.reset.readReg off)
        ∧ t.mem = (if s.job = none then s.mem else s.settled.mem)
    (∀ v : Word, v.getLsbD 1 = true →
      hostStep (.regWrite 0x008 4 v) s = .next (s.regWrite 0x008 4 v) ∧ afterReset (s.regWrite 0x008 4 v))
    ∧ ∃ t, hostStep .powerOnReset s = .next t ∧ afterReset t

/-- After reset the registers read the values of the register map (R44, R47, R74, R83, R564). -/
def Obligations.ResetRegisterValues : Prop :=
  State.reset.job = none ∧ State.reset.lut.valid = false
    ∧ (∀ off ∈ [0x008, 0x00C, 0x010, 0x014, 0x018, 0x01C, 0x020, 0x024, 0x028, 0x030, 0x034, 0x038, 0x040, 0x044, 0x048,
        0x04C, 0x070, 0x074, 0x080, 0x084, 0x088, 0x08C, 0x090, 0x094, 0x098, 0x09C], State.reset.readReg off = 0#32)
    ∧ [0x000, 0x004, 0x050, 0x054, 0x058, 0x05C, 0x060, 0x064, 0x068].map State.reset.readReg
      = [0x43545001#32, 0x00000127#32, 0x000000FF#32, 0x400CCCCD#32, 0x42C80000#32, 0x42C80000#32, 0x42BE1810#32,
        0x42C80000#32, 0x42D9C419#32]
    ∧ [0x100, 0x120, 0x140, 0x184, 0x1C8, 0x200, 0x240, 0x284, 0x3A0, 0x3E0].map State.reset.readReg
      = [0x3ED32D7C#32, 0x3F734721#32, 0x404F639A#32, 0x3F094D17#32, 0xBB856ECE#32, 0x3F800000#32, 0x408274AB#32,
        0x3F147AD1#32, 0x3F800000#32, 0x3F800000#32]

/-- An element read returns what an element write of the same place stored, and other bytes stay (R101, R102, R103). -/
def Obligations.ElementWriteReadsBack : Prop :=
  ∀ (m : Memory) (w : Store), m.wf = true → w.size ≤ 4 →
    (m.write w).read w.access = lowBytes w.size w.value
      ∧ (∀ k, k < w.size → (m.write w).byte (w.addr + k) = BitVec.ofNat 8 (w.value.toNat / 2 ^ (8 * k)))
      ∧ (∀ a, (a < w.addr ∨ w.addr + w.size ≤ a) → (m.write w).byte a = m.byte a) ∧ (m.write w).wf = true

/-- The rounding under every f32 operation is to the nearest binary32 magnitude, ties to even (R13, R20, R22). -/
def Obligations.RoundingIsNearest : Prop :=
  ∀ n d : Nat, 0 < d → roundMag n d < 0x7F800000 →
    let units := fun m : Nat => (fUnits (BitVec.ofNat 32 m) : Int)
    let off := fun m : Nat => ((n : Int) - d * units m).natAbs
    ∀ m, m < 0x7F800000 → off (roundMag n d) ≤ off m
      ∧ (off m = off (roundMag n d) → m ≠ roundMag n d → roundMag n d % 2 = 0)

/-- Both distances and every equality rule give the same result with their operands exchanged (R451, R452, R453, R456). -/
def Obligations.DistancesAreSymmetric : Prop :=
  ∀ a b : Tri, euclid a b = euclid b a ∧ taxicab a b = taxicab b a
    ∧ ∀ sp, equalIn sp a b = equalIn sp b a
      ∧ (isNaN a.c0 = false → isNaN a.c1 = false → isNaN a.c2 = false → equalIn sp a a = true)

/-- Quantization to an integer element multiplies by MAX, clamps, and rounds the exact value half up; to F32 it copies
(R204). -/
def Obligations.QuantizationRule : Prop :=
  (∀ x : F32, quant .f32 x = x)
    ∧ ∀ (t : ElemType) (x : F32), t ≠ .f32 →
      let max : Nat := if t = .u8 then 255 else 65535
      let s := fmul x (fOfNat max)
      let k := (quant t x).toNat
      (isNaN s = true → k = 0) ∧ (flt s posZero = true → k = 0) ∧ (flt (fOfNat max) s = true → k = max) ∧ k ≤ max
        ∧ (isNaN s = false → flt s posZero = false → flt (fOfNat max) s = false →
            k * 2 ^ 149 ≤ fUnits s + 2 ^ 148 ∧ fUnits s + 2 ^ 148 < (k + 1) * 2 ^ 149)

/-- Each guard of the kernels gives its value for every zero of either sign, every register and every ELEM record (R248,
R249, R250, R257, R258, R259, R260, R261, R262, R266, R267, R268). That a NaN lightness beside zero axes keeps
chroma and hue +0 is the choice of log entry 35 (DESIGN CHOICE). -/
def Obligations.DegenerateInputsAreGuarded : Prop :=
  ∀ (e : ElemChoice) (a : Regs) (x y z : F32), isZero x = true → isZero y = true → isZero z = true →
    (∀ u v, luvToXyz a ⟨x, u, v⟩ = zeroTri)
      ∧ (∀ v : Tri, isZero (fadd (fadd v.c0 (fmul k15 v.c1)) (fmul k3 v.c2)) = true →
          xyzToLuv e a v
            = let yr := fdiv v.c1 a.whiteY
              let l := if flt kLuvEps yr then fsub (fmul k116 (elemCbrt e yr)) k16 else fmul kLuvKappa yr
              if isZero l then zeroTri
              else ⟨l, fmul (fmul k13 l) (fsub posZero (whiteU a)), fmul (fmul k13 l) (fsub posZero (whiteV a))⟩)
      ∧ (∀ v : Tri, isZero (fdiv v.c1 a.whiteY) = true → xyzToLuv e a v = zeroTri)
      ∧ (∀ v : Tri, let yr := fdiv v.c1 a.whiteY
          isZero (if flt kLuvEps yr then fsub (fmul k116 (elemCbrt e yr)) k16 else fmul kLuvKappa yr) = true →
          xyzToLuv e a v = zeroTri)
      ∧ (∀ l u v, isZero l = false → isZero (fadd (fmul v (fdiv fOne (fmul k13 l))) (whiteV a)) = true →
          (luvToXyz a ⟨l, u, v⟩).c0 = posZero ∧ (luvToXyz a ⟨l, u, v⟩).c2 = posZero)
      ∧ (∀ l, toPolar e ⟨l, x, y⟩ = ⟨l, posZero, posZero⟩)
      ∧ xyzToJzazbz e a ⟨x, y, z⟩ = zeroTri
      ∧ jzazbzToXyz e a ⟨x, y, z⟩ = zeroTri
      ∧ sigInv e x = posZero ∧ sigInv e fOne = posZero
      ∧ (∀ w, fle (fdiv w (fsub fOne w)) posZero = true → sigInv e w = posZero)
      ∧ (∀ g, isFinite g = true → (rgbToHsv ⟨g, g, g⟩).c0 = posZero ∧ (rgbToHsl ⟨g, g, g⟩).c0 = posZero
          ∧ (rgbToHsl ⟨g, g, g⟩).c1 = posZero)
      ∧ (∀ v : Tri, isZero (maxTri v) = true → (rgbToHsv v).c1 = posZero)
      ∧ (∀ v : Tri, isZero (fsub fOne (fabs (fsub (fmul fTwo (fmul (fadd (maxTri v) (minTri v)) fHalf)) fOne))) = true →
          (rgbToHsl v).c1 = posZero)
      ∧ (∀ h s v, isFinite h = false →
          (hsvToRgb ⟨h, s, v⟩ = let m := fsub v (fmul v s)
            ⟨fadd posZero m, fadd posZero m, fadd posZero m⟩)
          ∧ hslToRgb ⟨h, s, v⟩ = let m := fsub v (fmul (fmul (fsub fOne (fabs (fsub (fmul fTwo v) fOne))) s) fHalf)
            ⟨fadd posZero m, fadd posZero m, fadd posZero m⟩)
      ∧ (∀ v : Tri, (∀ r ∈ [matRow a.bank.labLms.m00 a.bank.labLms.m01 a.bank.labLms.m02 v,
            matRow a.bank.labLms.m10 a.bank.labLms.m11 a.bank.labLms.m12 v,
            matRow a.bank.labLms.m20 a.bank.labLms.m21 a.bank.labLms.m22 v], fle r posZero = true) →
          xyzToLalphabeta e a v = zeroTri)
      ∧ lalphabetaToXyz e a ⟨x, y, z⟩ = matMul a.bank.labLmsInv zeroTri
      ∧ (∀ v : Tri, let t1 := fmul kSq33 v.c0
          let t2 := fmul kSq66 v.c1
          let t3 := fmul kSq22 v.c2
          (∀ r ∈ [fadd (fadd t1 t2) t3, fsub (fadd t1 t2) t3, fsub t1 (fmul kSq63 v.c1)], isZero r = true) →
          lalphabetaToXyz e a v = matMul a.bank.labLmsInv zeroTri)

/-- From an accepted START until the host reads STATUS with BUSY = 0, loads of the destination return any value (R106,
R112, R152, R502, R533). The free value is log entry 2 (DESIGN CHOICE); what a refused job owns, and that a STATUS
read alone ends the ownership, are log entries 17 and 19 (DEDUCED). -/
def Obligations.AcceptedJobOwnsDestination : Prop :=
  (∀ (s : State) (i : Instr) (op : JobOp) (c : Cmd), s.job = none → s.err = none →
    decode (clearReserved s.regs.cmd) = .ok i → jobOf i = some (op, c) → opcodePresent s.cfg i = true →
    c.imm = false → s.regs.width ≠ 0#32 → s.regs.height ≠ 0#32 →
    let w := s.regs.width.toNat
    let h := s.regs.height.toNat
    s.start.env.owning = true
      ∧ (∀ b a, (∀ f, Reads c f → b ∈ op.dests ⟨s.cfg, s.regs, f⟩) → InFootprint w h b a → ∃ d ∈ s.start.env.dests, d.covers a = true)
      ∧ (∀ d ∈ s.start.env.dests, ∃ b y,
          (∀ f, Reads c f → b ∈ op.dests ⟨s.cfg, s.regs, f⟩) ∧ y < h ∧ d = rowRange w b y)
      ∧ ∀ f, resolve c = some f → op.legal ⟨s.cfg, s.regs, f⟩ = true → op.alpha ⟨s.cfg, s.regs, f⟩ = true →
        ∀ q y e a, q < w → y < h → e ∈ op.dstElems ⟨s.cfg, s.regs, f⟩ → (e.access q y).covers a = true →
          ∃ d ∈ s.start.env.dests, d.covers a = true)
    ∧ (∀ s : State, s.job = none → s.err = none →
        ((bits s.regs.cmd 0 8 = 0 ∨ bits s.regs.cmd 22 1 = 1 ∨ s.regs.width = 0#32 ∨ s.regs.height = 0#32) →
          s.start.env.dests = [] ∧ s.start.env.plan = [])
        ∧ ∀ d, d ∈ s.start.env.pastDests ↔ s.env.owning = true ∧ (d ∈ s.env.dests ∨ d ∈ s.env.pastDests))
    ∧ (∀ s t : State, step s = .next t → s.env.owning = true →
        (t.env.owning = true ∧ ∀ d ∈ s.env.owned, d ∈ t.env.owned)
        ∨ s.job = none ∧ ∃ u, s.hostTurn = some (.regRead 0x00C 4, u))
    ∧ (∀ (s : State) (a : Nat) (m : Memory), (∃ d, (d ∈ s.env.dests ∨ d ∈ s.env.pastDests) ∧ d.covers a = true) →
        (State.hostLoad { s with mem := m } a).env.readData = (Config.freeByte s.env.draws).setWidth 32)
    ∧ ∀ s : State, s.job = none →
        (s.regRead 0x00C 4).env.owning = false ∧ (s.regRead 0x00C 4).env.owned = []

/-- A host store to bytes a job owns: the byte keeps the value, and what depends on it is any value once the job has
ended (R32, R112, R118, R152, R533, R573). The free bytes are log entry 2, when they are drawn and what later jobs
inherit log entry 15, and the bytes of the dirty line, under R118, log entries 13 and 22 (DESIGN CHOICE); what a
refused job owns is log entry 17, until when log entry 19, and what an element depends on log entry 34 (DEDUCED). -/
def Obligations.HostStoresRaceWithOwnedBytes : Prop :=
  (∀ (s : State) (i : Instr) (op : JobOp) (c : Cmd), s.job = none → s.err = none →
    decode (clearReserved s.regs.cmd) = .ok i → jobOf i = some (op, c) → opcodePresent s.cfg i = true →
    c.imm = false → s.regs.width ≠ 0#32 → s.regs.height ≠ 0#32 →
    let w := s.regs.width.toNat
    let h := s.regs.height.toNat
    (∀ f, resolve c = some f →
      let x : JobCtx := ⟨s.cfg, s.regs, f⟩
      op.legal x = true → op.alpha x = true → ∀ q y k slot byte e d, q < w → y < h → (op.dstElems x)[k]? = some e →
      (op.srcElems x)[slot]? = some d → byte < d.buf.unit → op.dep x k slot byte = true →
      ∃ p ∈ s.start.env.plan, p.dst = e.access q y ∧ d.addr q y + byte ∈ p.deps)
    ∧ (∀ q y k slot byte e d, q < w → y < h → e.inPixel = true → d.inPixel = true → byte < d.buf.unit →
      (∀ f, Reads c f → (op.dstElems ⟨s.cfg, s.regs, f⟩)[k]? = some e
        ∧ (op.srcElems ⟨s.cfg, s.regs, f⟩)[slot]? = some d ∧ op.dep ⟨s.cfg, s.regs, f⟩ k slot byte = true) →
      ∃ p ∈ s.start.env.plan, p.dst = e.access q y ∧ d.addr q y + byte ∈ p.deps)
    ∧ ∀ p ∈ s.start.env.plan, ∀ f, Reads c f →
      let x : JobCtx := ⟨s.cfg, s.regs, f⟩
      ∃ q y k e, q < w ∧ y < h ∧ (op.dstElems x)[k]? = some e ∧ p.dst = e.access q y
        ∧ ∀ a ∈ p.deps, ∃ slot d byte, (op.srcElems x)[slot]? = some d ∧ byte < d.buf.unit
          ∧ op.dep x k slot byte = true ∧ a = d.addr q y + byte)
    ∧ (∀ s : State, s.job = none → s.err = none →
        (∀ r, r ∈ s.start.env.past ↔ s.env.owning = true ∧ (r ∈ s.env.past ∨ ∃ p ∈ s.env.plan,
          r.deps = p.deps ∧ r.via = p.via ∧ r.dst.size = 1 ∧ p.dst.covers r.dst.addr = true))
        ∧ (∀ p ∈ s.start.env.plan, ∀ a, a ∈ p.via ↔
          ∃ r ∈ s.start.env.past, (∃ d ∈ p.deps, r.dst.covers d = true) ∧ (a ∈ r.deps ∨ a ∈ r.via))
        ∧ ∀ (u : State) (w : Store) (r : ElemPlan),
          r ∈ (u.storeElem w).env.past ↔ r ∈ u.env.past ∧ w.access.covers r.dst.addr = false)
    ∧ (∀ (s : State) (a : Nat) (v : Byte), s.mem.wf = true → s.env.owning = true → s.job ≠ none →
        let t := s.hostStore a v
        ∀ b, (StoreRaces s.cfg s.env.past s.env.pastDests a b →
            ∃ n, s.env.draws ≤ n ∧ n < t.env.draws ∧ t.mem.byte b = Config.freeByte n)
          ∧ (¬StoreRaces s.cfg s.env.past s.env.pastDests a b → t.mem.byte b = if b = a then v else s.mem.byte b)
          ∧ (Raced t b ↔ Raced s b ∨ StoreRaces s.cfg s.env.plan s.env.dests a b))
    ∧ (∀ (s : State) (a : Nat) (v : Byte), s.mem.wf = true → s.env.owning = true → s.job = none →
        let t := s.hostStore a v
        ∀ b, let hit := StoreRaces s.cfg s.env.past s.env.pastDests a b ∨ StoreRaces s.cfg s.env.plan s.env.dests a b
          (hit → ∃ n, s.env.draws ≤ n ∧ n < t.env.draws ∧ t.mem.byte b = Config.freeByte n)
          ∧ (¬hit → t.mem.byte b = if b = a then v else s.mem.byte b))
    ∧ (∀ s : State, s.mem.wf = true → ∀ b,
        (Raced s b → ∃ n, s.env.draws ≤ n ∧ n < s.settled.env.draws ∧ s.settled.mem.byte b = Config.freeByte n)
          ∧ (¬Raced s b → s.settled.mem.byte b = s.mem.byte b))
    ∧ ∀ (s : State) (a : Nat) (v : Byte), s.env.owning = false →
        (s.hostStore a v).mem = s.mem.setByte a v ∧ (s.hostStore a v).env.doomed = s.env.doomed

/-- Without I/O coherence, unclean source lines race, destination lines go stale, and clean and invalidate undo just
that (R112, R118, R573). The free value is log entry 2, the line size log entry 13, and what is dirty, marked and
stale log entries 22 and 33 (DESIGN CHOICE); that a refused job, one with reserved bits or codes included, has
footprints is log entry 17 (DEDUCED). -/
def Obligations.CoherenceStepsOmitted : Prop :=
  (∀ s t : State, s.cfg.ioCoherent = true → step s = .next t →
      (∀ b ∈ t.env.dirty, b ∈ s.env.dirty) ∧ (∀ b ∈ t.env.stale, b ∈ s.env.stale) ∧ s.accept.env.doomed = [])
    ∧ (∀ (s : State) (a : Nat) (v : Byte), s.cfg.ioCoherent = false →
        (∀ b, b ∈ (s.hostStore a v).env.dirty ↔ b = a ∨ b ∈ s.env.dirty)
          ∧ (s.env.owning = true → s.job ≠ none → ∀ b d, b < spaceSize s.cfg.addrW → (lineOf s.cfg a).covers b = true →
            d ∈ s.env.dests → d.covers b = true → Raced (s.hostStore a v) b))
    ∧ (∀ s : State, s.job = none → s.err = none → ∀ b,
        Raced s.start b ↔ StartRaces s.cfg s.env.dirty s.start.env.plan s.start.env.dests b)
    ∧ (∀ (s : State) (lo len b : Nat), 0 < s.cfg.cacheLine →
        let met := ∃ d, lo ≤ d ∧ d < lo + len ∧ d / s.cfg.cacheLine = b / s.cfg.cacheLine
        (b ∈ (s.cacheClean lo len).env.dirty ↔ b ∈ s.env.dirty ∧ ¬met)
          ∧ (b ∈ (s.cacheInvalidate lo len).env.stale ↔
            b ∈ s.env.stale ∧ (¬met ∨ ∃ d ∈ s.env.owned, d.covers b = true)))
    ∧ (∀ (s : State) (i : Instr) (op : JobOp) (c : Cmd), s.cfg.ioCoherent = false → s.job = none → s.err = none →
    decode (clearReserved s.regs.cmd) = .ok i → jobOf i = some (op, c) → opcodePresent s.cfg i = true →
    c.imm = false → s.regs.width ≠ 0#32 → s.regs.height ≠ 0#32 →
    ∀ b a, (∀ f, Reads c f → b ∈ op.dests ⟨s.cfg, s.regs, f⟩) →
            InFootprint s.regs.width.toNat s.regs.height.toNat b a → a ∈ s.start.env.stale)
    ∧ (∀ (s : State) (a : Nat) (m : Memory), a ∈ s.env.stale →
        (State.hostLoad { s with mem := m } a).env.readData = (Config.freeByte s.env.draws).setWidth 32)
    ∧ ∀ (s t : State) (a : Nat), step s = .next t → a ∈ s.env.stale →
        a ∈ t.env.stale
        ∨ (∀ d ∈ s.env.owned, d.covers a = false) ∧ ∃ lo len u, s.hostTurn = some (.cacheInvalidate lo len, u)

/-- A result element of a legal command is decided by the source bytes it is recorded to depend on (R112, R329). What an
element depends on is log entry 34 (DEDUCED). -/
def Obligations.DependenciesAreSound : Prop :=
  ∀ (i : Instr) (op : JobOp) (c : Cmd) (x : JobCtx), jobOf i = some (op, c) → resolve c = some x.f →
    op.legal x = true → op.alpha x = true → ∀ (k : Nat) (v w : Nat → Word),
    (∀ slot d, (op.srcElems x)[slot]? = some d →
      lowBytes d.buf.unit (v slot) = v slot ∧ lowBytes d.buf.unit (w slot) = w slot
        ∧ ∀ b, b < d.buf.unit → op.dep x k slot b = true → bits (v slot) (8 * b) 8 = bits (w slot) (8 * b) 8) →
    (op.body x v)[k]? = (op.body x w)[k]?
end

