-- ==== Sys2Proof/Laws/Elem.lean ====
section
/-! SUPPORT. The accuracy of an elementary-function record (R27): every record has the accuracy it states. -/

namespace Sys2Proof.Machine

/-! ### Negation -/

theorem fMag_fneg (x : F32) : fMag (fneg x) = fMag x := by
  apply Nat.eq_of_testBit_eq
  intro i
  simp only [fMag, fneg, BitVec.toNat_xor, Nat.testBit_mod_two_pow, Nat.testBit_xor]
  by_cases h : i < 31
  · have hb : Nat.testBit (0x80000000#32).toNat i = false := by
      rw [show (0x80000000#32).toNat = 2 ^ 31 from rfl, Nat.testBit_two_pow]
      exact decide_eq_false (by omega)
    rw [hb, Bool.xor_false]
  · simp [h]

theorem fSign_fneg (x : F32) : fSign (fneg x) = !fSign x := by
  have h : ∀ z : F32, fSign z = z.msb := fun z => by rw [BitVec.msb_eq_decide]; rfl
  rw [h, h, fneg, BitVec.msb_xor, show (0x80000000#32).msb = true from rfl, Bool.xor_true]

theorem fneg_inj {x y : F32} : fneg x = fneg y ↔ x = y := by
  constructor
  · intro h
    simpa [fneg, BitVec.xor_assoc] using congrArg fneg h
  · rintro rfl; rfl

/-! ### Nearness -/

theorem near_self (n : Nat) (x : F32) : near n x x = true := by
  unfold near withinUlps
  cases isNaN x <;> simp

theorem near_fneg (n : Nat) (x y : F32) : near n (fneg x) (fneg y) = near n x y := by
  have hn : ∀ z, isNaN (fneg z) = isNaN z := fun z => by simp [isNaN, fMag_fneg]
  have hp : ∀ z, fPlace (fneg z) = -fPlace z := fun z => by
    unfold fPlace
    rw [fMag_fneg, fSign_fneg]
    cases fSign z <;> simp
  have hd : (fPlace (fneg x) - fPlace (fneg y)).natAbs = (fPlace x - fPlace y).natAbs := by
    rw [hp, hp]; omega
  unfold near withinUlps
  rw [hn, hn, hd]
  simp [fneg_inj]

/-- A record's value is near the correctly rounded one. -/
theorem near_recordValue (e : ElemChoice) (cr : F32) (own : Nat → F32) :
    near e.ulps (recordValue e cr own) cr = true := by
  cases e with
  | correctlyRounded => exact near_self _ _
  | other id n =>
    simp only [recordValue, ElemChoice.ulps]
    split
    · next h =>
      have hc : isNaN cr = false := by
        revert h
        unfold withinUlps
        cases isNaN cr <;> simp
      rw [near, hc]
      exact h
    · exact near_self _ _

theorem near_ite (n : Nat) (c : Bool) {a b a' b' : F32} (h : near n a a' = true) (h' : near n b b' = true) :
    near n (if c then a else b) (if c then a' else b') = true := by
  cases c
  · exact h'
  · exact h

/-- R27: every record has the accuracy it states. -/
theorem accurate (e : ElemChoice) : Accurate e where
  cbrt x := near_ite _ _ (near_self _ _) <| near_ite _ _ (near_self _ _) <| by
    dsimp only
    exact near_ite _ _ ((near_fneg _ _ _).trans (near_recordValue e _ _)) (near_recordValue e _ _)
  pow x y := near_ite _ _ (near_self _ _) <| near_ite _ _ (near_self _ _) <| near_ite _ _ (near_self _ _) <|
    near_ite _ _ (near_self _ _) <| near_ite _ _ (near_self _ _) <| near_ite _ _ (near_self _ _) (near_recordValue e _ _)
  exp x := near_ite _ _ (near_self _ _) <| near_ite _ _ (near_self _ _) (near_recordValue e _ _)
  exp10 x := near_ite _ _ (near_self _ _) <| near_ite _ _ (near_self _ _) (near_recordValue e _ _)
  ln x := near_ite _ _ (near_self _ _) <| near_ite _ _ (near_self _ _) <| near_ite _ _ (near_self _ _) <|
    near_ite _ _ (near_self _ _) (near_recordValue e _ _)
  log10 x := near_ite _ _ (near_self _ _) <| near_ite _ _ (near_self _ _) <| near_ite _ _ (near_self _ _) <|
    near_ite _ _ (near_self _ _) (near_recordValue e _ _)
  atan2 y x := near_ite _ _ (near_self _ _) <| near_ite _ _ (near_self _ _) <| near_ite _ _ (near_self _ _) <|
    near_ite _ _ (near_self _ _) <| near_ite _ _ (near_self _ _) (near_recordValue e _ _)
  sin x := near_ite _ _ (near_self _ _) (near_recordValue e _ _)
  cos x := near_ite _ _ (near_self _ _) (near_recordValue e _ _)
  hypot x y := near_ite _ _ (near_self _ _) <| near_ite _ _ (near_self _ _) <| near_ite _ _ (near_self _ _)
    (near_recordValue e _ _)

/-- R209, D17: an open value of `pow` is no NaN. -/
theorem openPow_not_nan (x y : F32) : isNaN (openPow x y) = false := by
  unfold openPow
  cases h : isNaN (Config.powOpen x y)
  · simpa using h
  · rfl

end Sys2Proof.Machine
end

