-- ==== Sys2Proof/Laws/State.lean ====
section
/-! SUPPORT. What each update of the state leaves in each field: one lemma per field per update, so that no proof unfolds a
record update. -/

namespace Sys2Proof.Machine

/-! ### errorEntry -/

@[simp] theorem State.errorEntry_cfg (s : State) (c : ErrCode) (lo hi : Word) : (s.errorEntry c lo hi).cfg = s.cfg := rfl
@[simp] theorem State.errorEntry_ieDone (s : State) (c : ErrCode) (lo hi : Word) : (s.errorEntry c lo hi).ieDone = s.ieDone := rfl
@[simp] theorem State.errorEntry_ieErr (s : State) (c : ErrCode) (lo hi : Word) : (s.errorEntry c lo hi).ieErr = s.ieErr := rfl
@[simp] theorem State.errorEntry_done (s : State) (c : ErrCode) (lo hi : Word) : (s.errorEntry c lo hi).done = s.done := rfl
@[simp] theorem State.errorEntry_err (s : State) (c : ErrCode) (lo hi : Word) : (s.errorEntry c lo hi).err = some c := rfl
@[simp] theorem State.errorEntry_errInfoLo (s : State) (c : ErrCode) (lo hi : Word) : (s.errorEntry c lo hi).errInfoLo = lo := rfl
@[simp] theorem State.errorEntry_errInfoHi (s : State) (c : ErrCode) (lo hi : Word) : (s.errorEntry c lo hi).errInfoHi = hi := rfl
@[simp] theorem State.errorEntry_regs (s : State) (c : ErrCode) (lo hi : Word) : (s.errorEntry c lo hi).regs = s.regs := rfl
@[simp] theorem State.errorEntry_pixOut (s : State) (c : ErrCode) (lo hi : Word) : (s.errorEntry c lo hi).pixOut = s.pixOut := rfl
@[simp] theorem State.errorEntry_lut (s : State) (c : ErrCode) (lo hi : Word) : (s.errorEntry c lo hi).lut = s.lut := rfl
@[simp] theorem State.errorEntry_job (s : State) (c : ErrCode) (lo hi : Word) : (s.errorEntry c lo hi).job = none := rfl
@[simp] theorem State.errorEntry_mem (s : State) (c : ErrCode) (lo hi : Word) : (s.errorEntry c lo hi).mem = s.mem := rfl
@[simp] theorem State.errorEntry_env (s : State) (c : ErrCode) (lo hi : Word) : (s.errorEntry c lo hi).env = s.env := rfl

/-! ### complete -/

@[simp] theorem State.complete_cfg (s : State) : s.complete.cfg = s.cfg := rfl
@[simp] theorem State.complete_ieDone (s : State) : s.complete.ieDone = s.ieDone := rfl
@[simp] theorem State.complete_ieErr (s : State) : s.complete.ieErr = s.ieErr := rfl
@[simp] theorem State.complete_done (s : State) : s.complete.done = true := rfl
@[simp] theorem State.complete_err (s : State) : s.complete.err = s.err := rfl
@[simp] theorem State.complete_errInfoLo (s : State) : s.complete.errInfoLo = s.errInfoLo := rfl
@[simp] theorem State.complete_errInfoHi (s : State) : s.complete.errInfoHi = s.errInfoHi := rfl
@[simp] theorem State.complete_regs (s : State) : s.complete.regs = s.regs := rfl
@[simp] theorem State.complete_pixOut (s : State) : s.complete.pixOut = s.pixOut := rfl
@[simp] theorem State.complete_lut (s : State) : s.complete.lut = s.lut := rfl
@[simp] theorem State.complete_job (s : State) : s.complete.job = none := rfl
@[simp] theorem State.complete_mem (s : State) : s.complete.mem = s.mem := rfl
@[simp] theorem State.complete_env (s : State) : s.complete.env = s.env := rfl

/-! ### drawByte -/

@[simp] theorem State.drawByte_cfg (s : State) (a : Nat) : (s.drawByte a).cfg = s.cfg := rfl
@[simp] theorem State.drawByte_ieDone (s : State) (a : Nat) : (s.drawByte a).ieDone = s.ieDone := rfl
@[simp] theorem State.drawByte_ieErr (s : State) (a : Nat) : (s.drawByte a).ieErr = s.ieErr := rfl
@[simp] theorem State.drawByte_done (s : State) (a : Nat) : (s.drawByte a).done = s.done := rfl
@[simp] theorem State.drawByte_err (s : State) (a : Nat) : (s.drawByte a).err = s.err := rfl
@[simp] theorem State.drawByte_errInfoLo (s : State) (a : Nat) : (s.drawByte a).errInfoLo = s.errInfoLo := rfl
@[simp] theorem State.drawByte_errInfoHi (s : State) (a : Nat) : (s.drawByte a).errInfoHi = s.errInfoHi := rfl
@[simp] theorem State.drawByte_regs (s : State) (a : Nat) : (s.drawByte a).regs = s.regs := rfl
@[simp] theorem State.drawByte_pixOut (s : State) (a : Nat) : (s.drawByte a).pixOut = s.pixOut := rfl
@[simp] theorem State.drawByte_lut (s : State) (a : Nat) : (s.drawByte a).lut = s.lut := rfl
@[simp] theorem State.drawByte_job (s : State) (a : Nat) : (s.drawByte a).job = s.job := rfl
@[simp] theorem State.drawByte_mem (s : State) (a : Nat) : (s.drawByte a).mem = s.mem.setByte a (Config.freeByte s.env.draws) := rfl
@[simp] theorem State.drawByte_env (s : State) (a : Nat) : (s.drawByte a).env = { s.env with draws := s.env.draws + 1 } := rfl

/-! ### accept -/

@[simp] theorem State.accept_cfg (s : State) : s.accept.cfg = s.cfg := rfl
@[simp] theorem State.accept_ieDone (s : State) : s.accept.ieDone = s.ieDone := rfl
@[simp] theorem State.accept_ieErr (s : State) : s.accept.ieErr = s.ieErr := rfl
@[simp] theorem State.accept_done (s : State) : s.accept.done = false := rfl
@[simp] theorem State.accept_err (s : State) : s.accept.err = s.err := rfl
@[simp] theorem State.accept_errInfoLo (s : State) : s.accept.errInfoLo = s.errInfoLo := rfl
@[simp] theorem State.accept_errInfoHi (s : State) : s.accept.errInfoHi = s.errInfoHi := rfl
@[simp] theorem State.accept_regs (s : State) : s.accept.regs = s.regs := rfl
@[simp] theorem State.accept_pixOut (s : State) : s.accept.pixOut = s.pixOut := rfl
@[simp] theorem State.accept_lut (s : State) : s.accept.lut = s.lut := rfl
@[simp] theorem State.accept_job (s : State) : s.accept.job = some ⟨s.regs, .check, []⟩ := rfl
@[simp] theorem State.accept_mem (s : State) : s.accept.mem = s.mem := rfl

/-! ### putByte -/

@[simp] theorem State.putByte_cfg (s : State) (a : Nat) (v : Byte) : (s.putByte a v).cfg = s.cfg := rfl
@[simp] theorem State.putByte_ieDone (s : State) (a : Nat) (v : Byte) : (s.putByte a v).ieDone = s.ieDone := rfl
@[simp] theorem State.putByte_ieErr (s : State) (a : Nat) (v : Byte) : (s.putByte a v).ieErr = s.ieErr := rfl
@[simp] theorem State.putByte_done (s : State) (a : Nat) (v : Byte) : (s.putByte a v).done = s.done := rfl
@[simp] theorem State.putByte_err (s : State) (a : Nat) (v : Byte) : (s.putByte a v).err = s.err := rfl
@[simp] theorem State.putByte_errInfoLo (s : State) (a : Nat) (v : Byte) : (s.putByte a v).errInfoLo = s.errInfoLo := rfl
@[simp] theorem State.putByte_errInfoHi (s : State) (a : Nat) (v : Byte) : (s.putByte a v).errInfoHi = s.errInfoHi := rfl
@[simp] theorem State.putByte_regs (s : State) (a : Nat) (v : Byte) : (s.putByte a v).regs = s.regs := rfl
@[simp] theorem State.putByte_pixOut (s : State) (a : Nat) (v : Byte) : (s.putByte a v).pixOut = s.pixOut := rfl
@[simp] theorem State.putByte_lut (s : State) (a : Nat) (v : Byte) : (s.putByte a v).lut = s.lut := rfl
@[simp] theorem State.putByte_job (s : State) (a : Nat) (v : Byte) : (s.putByte a v).job = s.job := rfl
@[simp] theorem State.putByte_mem (s : State) (a : Nat) (v : Byte) : (s.putByte a v).mem = s.mem.setByte a v := rfl
@[simp] theorem State.putByte_env (s : State) (a : Nat) (v : Byte) : (s.putByte a v).env
    = { s.env with dirty := if s.cfg.ioCoherent then s.env.dirty else a :: s.env.dirty } := rfl

/-! ### storeElem -/

@[simp] theorem State.storeElem_cfg (s : State) (w : Store) : (s.storeElem w).cfg = s.cfg := rfl
@[simp] theorem State.storeElem_ieDone (s : State) (w : Store) : (s.storeElem w).ieDone = s.ieDone := rfl
@[simp] theorem State.storeElem_ieErr (s : State) (w : Store) : (s.storeElem w).ieErr = s.ieErr := rfl
@[simp] theorem State.storeElem_done (s : State) (w : Store) : (s.storeElem w).done = s.done := rfl
@[simp] theorem State.storeElem_err (s : State) (w : Store) : (s.storeElem w).err = s.err := rfl
@[simp] theorem State.storeElem_errInfoLo (s : State) (w : Store) : (s.storeElem w).errInfoLo = s.errInfoLo := rfl
@[simp] theorem State.storeElem_errInfoHi (s : State) (w : Store) : (s.storeElem w).errInfoHi = s.errInfoHi := rfl
@[simp] theorem State.storeElem_regs (s : State) (w : Store) : (s.storeElem w).regs = s.regs := rfl
@[simp] theorem State.storeElem_pixOut (s : State) (w : Store) : (s.storeElem w).pixOut = s.pixOut := rfl
@[simp] theorem State.storeElem_lut (s : State) (w : Store) : (s.storeElem w).lut = s.lut := rfl
@[simp] theorem State.storeElem_job (s : State) (w : Store) : (s.storeElem w).job = s.job := rfl
@[simp] theorem State.storeElem_env (s : State) (w : Store) : (s.storeElem w).env
    = { s.env with past := s.env.past.filter fun p => !w.access.covers p.dst.addr } := rfl
@[simp] theorem State.storeElem_mem (s : State) (w : Store) : (s.storeElem w).mem = s.mem.write w := rfl

/-! ### blockReset -/

@[simp] theorem State.blockReset_cfg (c : Config) (m : Memory) (e : Env) : (State.blockReset c m e).cfg = c := rfl
@[simp] theorem State.blockReset_ieDone (c : Config) (m : Memory) (e : Env) : (State.blockReset c m e).ieDone = false := rfl
@[simp] theorem State.blockReset_ieErr (c : Config) (m : Memory) (e : Env) : (State.blockReset c m e).ieErr = false := rfl
@[simp] theorem State.blockReset_done (c : Config) (m : Memory) (e : Env) : (State.blockReset c m e).done = false := rfl
@[simp] theorem State.blockReset_err (c : Config) (m : Memory) (e : Env) : (State.blockReset c m e).err = none := rfl
@[simp] theorem State.blockReset_errInfoLo (c : Config) (m : Memory) (e : Env) : (State.blockReset c m e).errInfoLo = 0#32 := rfl
@[simp] theorem State.blockReset_errInfoHi (c : Config) (m : Memory) (e : Env) : (State.blockReset c m e).errInfoHi = 0#32 := rfl
@[simp] theorem State.blockReset_regs (c : Config) (m : Memory) (e : Env) : (State.blockReset c m e).regs = Regs.reset := rfl
@[simp] theorem State.blockReset_pixOut (c : Config) (m : Memory) (e : Env) : (State.blockReset c m e).pixOut = Quad.zero := rfl
@[simp] theorem State.blockReset_lut (c : Config) (m : Memory) (e : Env) : (State.blockReset c m e).lut = Lut.reset := rfl
@[simp] theorem State.blockReset_job (c : Config) (m : Memory) (e : Env) : (State.blockReset c m e).job = none := rfl
@[simp] theorem State.blockReset_mem (c : Config) (m : Memory) (e : Env) : (State.blockReset c m e).mem = m := rfl
@[simp] theorem State.blockReset_env (c : Config) (m : Memory) (e : Env) : (State.blockReset c m e).env = e := rfl

/-! ### The parts of the surroundings after an update -/

@[simp] theorem State.accept_inputs (s : State) : s.accept.env.inputs = s.env.inputs := rfl
@[simp] theorem State.accept_tape (s : State) : s.accept.env.tape = s.env.tape := rfl
@[simp] theorem State.accept_draws (s : State) : s.accept.env.draws = s.env.draws := rfl
@[simp] theorem State.accept_owning (s : State) : s.accept.env.owning = true := rfl
@[simp] theorem State.accept_plan (s : State) : s.accept.env.plan = s.newPlan := rfl
@[simp] theorem State.accept_dests (s : State) : s.accept.env.dests = jobDests s.cfg s.regs := rfl
@[simp] theorem State.accept_past (s : State) : s.accept.env.past = s.env.earlier := rfl
@[simp] theorem State.accept_pastDests (s : State) :
    s.accept.env.pastDests = if s.env.owning then s.env.owned else [] := rfl
@[simp] theorem State.accept_doomed (s : State) :
    s.accept.env.doomed = startCost s.cfg s.env.dirty s.newPlan (jobDests s.cfg s.regs) := rfl
@[simp] theorem State.accept_dirty (s : State) : s.accept.env.dirty = s.env.dirty := rfl
@[simp] theorem State.accept_readData (s : State) : s.accept.env.readData = s.env.readData := rfl

end Sys2Proof.Machine
end

