-- ==== Sys2Proof/Laws/Memory.lean ====
section
/-! SUPPORT. Memory: every operation keeps the canonical form, a read after a write gives the value written, and a write
leaves every other byte alone. -/

namespace Sys2Proof.Machine

/-! ### Accesses -/

theorem Access.covers_true {c : Access} {a : Nat} : c.covers a = true ↔ c.addr ≤ a ∧ a < c.addr + c.size := by
  unfold Access.covers
  rw [Bool.and_eq_true, decide_eq_true_iff, decide_eq_true_iff]

theorem Access.covers_false {c : Access} {a : Nat} : c.covers a = false ↔ a < c.addr ∨ c.addr + c.size ≤ a := by
  rw [← Bool.not_eq_true, Access.covers_true]
  omega

/-! ### Bytes -/

theorem cellsAbove_mono {lo lo' : Nat} (h : lo' ≤ lo) :
    ∀ {l : List Host.Cell}, cellsAbove lo l = true → cellsAbove lo' l = true
  | [], _ => rfl
  | (a, b) :: rest, hl => by
    simp only [cellsAbove, Bool.and_eq_true, decide_eq_true_eq] at hl ⊢
    exact ⟨⟨by omega, hl.1.2⟩, hl.2⟩

/-- Canonical cells above `lo` hold no byte below it. -/
theorem readCells_below {lo a : Nat} (h : a < lo) :
    ∀ {l : List Host.Cell}, cellsAbove lo l = true → readCells a l = unlistedByte
  | [], _ => rfl
  | (b, w) :: rest, hl => by
    simp only [cellsAbove, Bool.and_eq_true, decide_eq_true_eq] at hl
    rw [readCells, if_neg (by omega)]
    exact readCells_below (by omega : a < b + 1) hl.2

theorem readCells_writeCells_same (a : Nat) (v : Byte) :
    ∀ {lo : Nat} {l : List Host.Cell}, cellsAbove lo l = true → readCells a (writeCells a v l) = v
  | _, [], _ => by
    unfold writeCells
    split
    · next h => exact h.symm
    · simp [readCells]
  | lo, (b, w) :: rest, hl => by
    simp only [cellsAbove, Bool.and_eq_true, decide_eq_true_eq] at hl
    unfold writeCells
    split
    · split
      · next h hv =>
        rw [readCells, if_neg (by omega), readCells_below (by omega : a < b + 1) hl.2, hv]
      · simp [readCells]
    · split
      · next h h' =>
        split
        · next hv => rw [readCells_below (by omega : a < b + 1) hl.2, hv]
        · simp [readCells]
      · next h h' =>
        rw [readCells, if_neg h']
        exact readCells_writeCells_same a v hl.2

theorem readCells_writeCells_other {a b : Nat} (v : Byte) (h : b ≠ a) :
    ∀ (l : List Host.Cell), readCells b (writeCells a v l) = readCells b l
  | [] => by
    unfold writeCells
    split <;> simp [readCells, h]
  | (c, w) :: rest => by
    unfold writeCells
    split
    · split <;> simp [readCells, h]
    · split
      · next h' =>
        subst h'
        split <;> simp [readCells, h]
      · simp only [readCells]
        split
        · rfl
        · exact readCells_writeCells_other v h rest

theorem cellsAbove_writeCells {a : Nat} (v : Byte) :
    ∀ {lo : Nat} {l : List Host.Cell}, lo ≤ a → cellsAbove lo l = true → cellsAbove lo (writeCells a v l) = true
  | _, [], hlo, _ => by
    unfold writeCells
    split <;> simp_all [cellsAbove]
  | lo, (b, w) :: rest, hlo, hl => by
    have hl' := hl
    simp only [cellsAbove, Bool.and_eq_true, decide_eq_true_eq] at hl'
    unfold writeCells
    split
    · split
      · exact hl
      · next h hv =>
        simp only [cellsAbove, Bool.and_eq_true, decide_eq_true_eq]
        exact ⟨⟨hlo, hv⟩, ⟨by omega, hl'.1.2⟩, hl'.2⟩
    · split
      · next h h' =>
        split
        · exact cellsAbove_mono (by omega) hl'.2
        · next hv =>
          simp only [cellsAbove, Bool.and_eq_true, decide_eq_true_eq]
          exact ⟨⟨hlo, hv⟩, h' ▸ hl'.2⟩
      · next h h' =>
        simp only [cellsAbove, Bool.and_eq_true, decide_eq_true_eq]
        exact ⟨hl'.1, cellsAbove_writeCells v (by omega) hl'.2⟩

/-- A written byte reads back. -/
theorem Memory.byte_setByte_same {m : Memory} (h : m.wf = true) (a : Nat) (v : Byte) : (m.setByte a v).byte a = v :=
  readCells_writeCells_same a v h

/-- Every other byte stays. -/
theorem Memory.byte_setByte_other (m : Memory) {a b : Nat} (v : Byte) (h : b ≠ a) :
    (m.setByte a v).byte b = m.byte b :=
  readCells_writeCells_other v h m.cells

/-- Setting a byte keeps the canonical form. -/
theorem Memory.wf_setByte {m : Memory} (h : m.wf = true) (a : Nat) (v : Byte) : (m.setByte a v).wf = true :=
  cellsAbove_writeCells v (Nat.zero_le a) h

/-! ### Elements -/

theorem Memory.wf_writeNat : ∀ (n : Nat) {m : Memory} (a v : Nat), m.wf = true → (m.writeNat a n v).wf = true
  | 0, _, _, _, h => h
  | n + 1, _, a, v, h => Memory.wf_writeNat n (a + 1) (v / 256) (Memory.wf_setByte h a _)

/-- An element write keeps the canonical form. -/
theorem Memory.wf_write {m : Memory} (h : m.wf = true) (w : Store) : (m.write w).wf = true :=
  Memory.wf_writeNat w.size w.addr w.value.toNat h

theorem Memory.byte_writeNat_other :
    ∀ (n : Nat) (m : Memory) (a v : Nat) {b : Nat}, (b < a ∨ a + n ≤ b) → (m.writeNat a n v).byte b = m.byte b
  | 0, _, _, _, _, _ => rfl
  | n + 1, m, a, v, b, h => by
    rw [Memory.writeNat, Memory.byte_writeNat_other n _ (a + 1) (v / 256) (by omega),
      Memory.byte_setByte_other m _ (by omega)]

/-- An element write leaves every byte outside its own as it was. -/
theorem Memory.byte_write_other (m : Memory) (w : Store) {b : Nat} (h : w.access.covers b = false) :
    (m.write w).byte b = m.byte b := by
  apply Memory.byte_writeNat_other
  exact Access.covers_false.mp h

theorem Memory.byte_writeNat_same :
    ∀ (n : Nat) {m : Memory} (a v : Nat), m.wf = true → ∀ k, k < n →
      (m.writeNat a n v).byte (a + k) = BitVec.ofNat 8 (v / 256 ^ k)
  | 0, _, _, _, _, k, hk => absurd hk (Nat.not_lt_zero k)
  | n + 1, m, a, v, h, 0, _ => by
    rw [Memory.writeNat, Memory.byte_writeNat_other n _ (a + 1) (v / 256) (by omega)]
    simpa using Memory.byte_setByte_same h a (BitVec.ofNat 8 v)
  | n + 1, m, a, v, h, k + 1, hk => by
    have := Memory.byte_writeNat_same n (a + 1) (v / 256) (Memory.wf_setByte h a (BitVec.ofNat 8 v)) k (by omega)
    rw [Memory.writeNat, show a + (k + 1) = a + 1 + k by omega, this, Nat.div_div_eq_div_mul, Nat.pow_succ,
      Nat.mul_comm]

/-! ### Address lists -/

/-- The addresses of an access are those it covers. -/
theorem Access.mem_bytes {c : Access} {a : Nat} : a ∈ c.bytes ↔ c.covers a = true := by
  rw [Access.covers_true]
  simp only [Access.bytes, List.mem_map, List.mem_range]
  constructor
  · rintro ⟨k, hk, rfl⟩; omega
  · intro h; exact ⟨a - c.addr, by omega, by omega⟩

/-- The addresses two accesses share are those both cover. -/
theorem Access.mem_common {c d : Access} {a : Nat} : a ∈ c.common d ↔ c.covers a = true ∧ d.covers a = true := by
  rw [Access.covers_true, Access.covers_true]
  simp only [Access.common, List.mem_map, List.mem_range]
  constructor
  · rintro ⟨k, hk, rfl⟩; omega
  · intro h; exact ⟨a - max c.addr d.addr, by omega, by omega⟩

/-! ### Free bytes -/

/-- Drawing bytes keeps the canonical form. -/
theorem State.drawBytes_wf :
    ∀ (l : List Nat) {s : State}, s.mem.wf = true → (s.drawBytes l).mem.wf = true
  | [], _, h => h
  | a :: rest, _, h => State.drawBytes_wf rest (Memory.wf_setByte h a _)

/-- Settling races keeps the canonical form. -/
theorem State.settled_wf {s : State} (h : s.mem.wf = true) : s.settled.mem.wf = true :=
  State.drawBytes_wf _ h

end Sys2Proof.Machine
end

