-- ==== Sys2Proof/Laws/Ops.lean ====
section
/-! SUPPORT. The shared operations, each with one lemma that says what it can do: settling and drawing, the endings of a
job, START, acknowledgement, reset, and the register file's reads and writes. -/

namespace Sys2Proof.Machine

/-! ### Drawing free bytes touches memory and the count of draws only -/

/-- What drawing does: a listed byte becomes a free byte drawn now, every other byte stays. -/
theorem State.drawBytes_spec :
    ∀ (l : List Nat) (s : State),
      ∃ m, s.drawBytes l = { s with mem := m, env := { s.env with draws := s.env.draws + l.length } }
        ∧ (∀ b, b ∉ l → m.byte b = s.mem.byte b)
        ∧ (s.mem.wf = true → ∀ b ∈ l, ∃ n, s.env.draws ≤ n ∧ n < s.env.draws + l.length
            ∧ m.byte b = Config.freeByte n)
  | [], s => ⟨s.mem, rfl, fun _ _ => rfl, fun _ _ h => absurd h (List.not_mem_nil)⟩
  | a :: rest, s => by
    obtain ⟨m, h, hout, hin⟩ := State.drawBytes_spec rest (s.drawByte a)
    refine ⟨m, ?_, fun b hb => ?_, fun hwf b hb => ?_⟩
    · rw [State.drawBytes, h]
      simp [State.drawByte, Nat.add_comm, Nat.add_left_comm]
    · rw [hout b fun hr => hb (List.mem_cons_of_mem _ hr)]
      exact Memory.byte_setByte_other _ _ fun e => hb (e ▸ List.mem_cons_self ..)
    · by_cases hr : b ∈ rest
      · obtain ⟨n, h₁, h₂, h₃⟩ := hin (Memory.wf_setByte hwf a _) b hr
        simp only [State.drawByte_env] at h₁ h₂
        exact ⟨n, by omega, by rw [List.length_cons]; omega, h₃⟩
      · obtain rfl : b = a := (List.mem_cons.mp hb).resolve_right hr
        refine ⟨s.env.draws, Nat.le_refl _, by rw [List.length_cons]; omega, ?_⟩
        rw [hout b hr]
        exact Memory.byte_setByte_same hwf b _

/-- The bytes that races cost a job. -/
theorem mem_raceCost {cfg : Config} {hit : ElemPlan → Bool} {ranges dests : List Access} {plan : List ElemPlan} {b : Nat} :
    b ∈ raceCost cfg hit ranges plan dests ↔ b < spaceSize cfg.addrW
      ∧ ((∃ p ∈ plan, hit p = true ∧ p.dst.covers b = true)
        ∨ (∃ r ∈ ranges, r.covers b = true) ∧ ∃ d ∈ dests, d.covers b = true) := by
  simp only [raceCost, List.mem_filter, List.mem_append, List.mem_flatMap, Access.mem_bytes, Access.mem_common,
    decide_eq_true_eq]
  constructor
  · rintro ⟨⟨p, ⟨hp, hh⟩, hc⟩ | ⟨r, hr, d, hd, hc, he⟩, hs⟩
    · exact ⟨hs, .inl ⟨p, hp, hh, hc⟩⟩
    · exact ⟨hs, .inr ⟨⟨r, hr, hc⟩, d, hd, he⟩⟩
  · rintro ⟨hs, ⟨p, hp, hh, hc⟩ | ⟨⟨r, hr, hc⟩, d, hd, he⟩⟩
    · exact ⟨.inl ⟨p, ⟨hp, hh⟩, hc⟩, hs⟩
    · exact ⟨.inr ⟨r, hr, d, hd, hc, he⟩, hs⟩

theorem mem_dirtyLines {cfg : Config} {dirty : List Nat} {l : Access} :
    l ∈ dirtyLines cfg dirty ↔ cfg.ioCoherent = false ∧ ∃ a ∈ dirty, lineOf cfg a = l := by
  unfold dirtyLines
  cases cfg.ioCoherent <;> simp

/-- The bytes a host store costs (R112 (a), (b), R118). -/
theorem mem_storeCost {cfg : Config} {plan : List ElemPlan} {dests : List Access} {a b : Nat} :
    b ∈ storeCost cfg a plan dests ↔ StoreRaces cfg plan dests a b := by
  have self : (⟨a, 1⟩ : Access).covers b = true ↔ b = a := by rw [Access.covers_true]; simp only; omega
  simp only [storeCost, mem_raceCost, StoreRaces, ElemPlan.needs, Bool.or_eq_true, decide_eq_true_eq, List.mem_cons,
    exists_eq_or_imp, self, mem_dirtyLines, List.not_mem_nil, or_false, exists_eq_left, and_assoc, exists_and_left]
  rw [exists_eq_left']

/-- The bytes that lines dirty at START cost the job (R118). -/
theorem mem_startCost {cfg : Config} {dirty : List Nat} {plan : List ElemPlan} {dests : List Access} {b : Nat} :
    b ∈ startCost cfg dirty plan dests ↔ StartRaces cfg dirty plan dests b := by
  simp only [startCost, mem_raceCost, StartRaces, List.any_eq_true, mem_dirtyLines]
  constructor
  · rintro ⟨hs, ⟨p, hp, ⟨d, hd, l, ⟨hi, a, ha, rfl⟩, hl⟩, hc⟩ | ⟨⟨l, ⟨hi, a, ha, rfl⟩, hl⟩, hd⟩⟩
    · exact ⟨hi, hs, a, ha, .inl ⟨p, hp, ⟨d, hd, hl⟩, hc⟩⟩
    · exact ⟨hi, hs, a, ha, .inr ⟨hl, hd⟩⟩
  · rintro ⟨hi, hs, a, ha, ⟨p, hp, ⟨d, hd, hl⟩, hc⟩ | ⟨hl, hd⟩⟩
    · exact ⟨hs, .inl ⟨p, hp, ⟨d, hd, _, ⟨hi, a, ha, rfl⟩, hl⟩, hc⟩⟩
    · exact ⟨hs, .inr ⟨⟨_, ⟨hi, a, ha, rfl⟩, hl⟩, hd⟩⟩

/-- A START with no dirty line dooms nothing. -/
@[simp] theorem startCost_nil (cfg : Config) (plan : List ElemPlan) (dests : List Access) :
    startCost cfg [] plan dests = [] := by
  rw [List.eq_nil_iff_forall_not_mem]
  rintro b h
  obtain ⟨-, -, a, ha, -⟩ := mem_startCost.mp h
  exact List.not_mem_nil ha

theorem State.settled_of_no_race {s : State} (h : s.env.doomed = []) : s.settled = s := by
  rw [State.settled, h]; rfl

/-- Settling changes memory and the count of draws only. -/
theorem State.settled_eq (s : State) : ∃ m d, s.settled = { s with mem := m, env := { s.env with draws := d } } := by
  obtain ⟨m, h, -⟩ := State.drawBytes_spec s.env.doomed s
  exact ⟨m, _, h⟩

/-- A host store changes memory, the count of draws, the dirty bytes and the doomed bytes, and nothing else. -/
theorem State.hostStore_eq (s : State) (a : Nat) (v : Byte) :
    ∃ m d, s.hostStore a v = { s with
      mem := m
      env := { s.env with
        draws := d
        dirty := if s.cfg.ioCoherent then s.env.dirty else a :: s.env.dirty
        doomed := if s.env.owning && s.busy then s.lastCost a ++ s.env.doomed else s.env.doomed } } := by
  unfold State.hostStore
  cases s.env.owning <;> cases s.busy <;> simp only [Bool.not_true, Bool.not_false, Bool.and_true, Bool.and_false,
    Bool.false_eq_true, if_true, if_false]
  · exact ⟨_, _, rfl⟩
  · exact ⟨_, _, rfl⟩
  · obtain ⟨m, h, -⟩ := State.drawBytes_spec (s.lastCost a ++ s.pastCost a) (s.putByte a v)
    exact ⟨m, _, h⟩
  · obtain ⟨m, h, -⟩ := State.drawBytes_spec (s.pastCost a)
      { s.putByte a v with env := { (s.putByte a v).env with doomed := s.lastCost a ++ s.env.doomed } }
    exact ⟨m, _, h⟩

@[simp] theorem State.settled_cfg (s : State) : s.settled.cfg = s.cfg := by
  obtain ⟨m, d, h⟩ := s.settled_eq; rw [h]
@[simp] theorem State.settled_ieDone (s : State) : s.settled.ieDone = s.ieDone := by
  obtain ⟨m, d, h⟩ := s.settled_eq; rw [h]
@[simp] theorem State.settled_ieErr (s : State) : s.settled.ieErr = s.ieErr := by
  obtain ⟨m, d, h⟩ := s.settled_eq; rw [h]
@[simp] theorem State.settled_done (s : State) : s.settled.done = s.done := by
  obtain ⟨m, d, h⟩ := s.settled_eq; rw [h]
@[simp] theorem State.settled_err (s : State) : s.settled.err = s.err := by
  obtain ⟨m, d, h⟩ := s.settled_eq; rw [h]
@[simp] theorem State.settled_errInfoLo (s : State) : s.settled.errInfoLo = s.errInfoLo := by
  obtain ⟨m, d, h⟩ := s.settled_eq; rw [h]
@[simp] theorem State.settled_errInfoHi (s : State) : s.settled.errInfoHi = s.errInfoHi := by
  obtain ⟨m, d, h⟩ := s.settled_eq; rw [h]
@[simp] theorem State.settled_regs (s : State) : s.settled.regs = s.regs := by
  obtain ⟨m, d, h⟩ := s.settled_eq; rw [h]
@[simp] theorem State.settled_pixOut (s : State) : s.settled.pixOut = s.pixOut := by
  obtain ⟨m, d, h⟩ := s.settled_eq; rw [h]
@[simp] theorem State.settled_lut (s : State) : s.settled.lut = s.lut := by
  obtain ⟨m, d, h⟩ := s.settled_eq; rw [h]
@[simp] theorem State.settled_job (s : State) : s.settled.job = s.job := by
  obtain ⟨m, d, h⟩ := s.settled_eq; rw [h]

/-! ### Settling does not read what an ending writes -/

theorem State.drawBytes_update (s : State) (j : Option Job) (t : Lut) (q : Quad) :
    ∀ l : List Nat, { s with job := j, lut := t, pixOut := q }.drawBytes l
      = { s.drawBytes l with job := j, lut := t, pixOut := q } := by
  intro l
  induction l generalizing s with
  | nil => rfl
  | cons a rest ih => exact ih (s.drawByte a)

/-- The job record, the table and PIX_OUT play no part in settling. -/
theorem State.settled_update (s : State) (j : Option Job) (t : Lut) (q : Quad) :
    { s with job := j, lut := t, pixOut := q }.settled = { s.settled with job := j, lut := t, pixOut := q } :=
  State.drawBytes_update s j t q _

/-! ### The endings -/

@[simp] theorem immDone_cfg (s : State) (q : Quad) : (immDone s q).cfg = s.cfg := by simp [immDone]
@[simp] theorem immDone_ieDone (s : State) (q : Quad) : (immDone s q).ieDone = s.ieDone := by simp [immDone]
@[simp] theorem immDone_ieErr (s : State) (q : Quad) : (immDone s q).ieErr = s.ieErr := by simp [immDone]
@[simp] theorem immDone_done (s : State) (q : Quad) : (immDone s q).done = true := by simp [immDone]
@[simp] theorem immDone_err (s : State) (q : Quad) : (immDone s q).err = s.err := by simp [immDone]
@[simp] theorem immDone_errInfoLo (s : State) (q : Quad) : (immDone s q).errInfoLo = s.errInfoLo := by simp [immDone]
@[simp] theorem immDone_errInfoHi (s : State) (q : Quad) : (immDone s q).errInfoHi = s.errInfoHi := by simp [immDone]
@[simp] theorem immDone_regs (s : State) (q : Quad) : (immDone s q).regs = s.regs := by simp [immDone]
@[simp] theorem immDone_pixOut (s : State) (q : Quad) : (immDone s q).pixOut = q := by simp [immDone]
@[simp] theorem immDone_lut (s : State) (q : Quad) : (immDone s q).lut = s.lut := by simp [immDone]
@[simp] theorem immDone_job (s : State) (q : Quad) : (immDone s q).job = none := by simp [immDone]
@[simp] theorem immDone_mem (s : State) (q : Quad) : (immDone s q).mem = s.settled.mem := by simp [immDone]
@[simp] theorem immDone_env (s : State) (q : Quad) : (immDone s q).env = s.settled.env := by simp [immDone]

/-- With no race, the end of an IMM job changes nothing but STATUS, PIX_OUT and the job record. -/
theorem immDone_of_no_race {s : State} (h : s.env.doomed = []) (q : Quad) :
    immDone s q = { s with job := none, done := true, pixOut := q } := by
  rw [immDone, State.settled_of_no_race h]

/-- Error entry for a faulting access, with the address. -/
theorem State.busEntry_spec (s : State) (a : Nat) :
    ∃ m d, s.busEntry a
      = { s with
          mem := m
          env := { s.env with draws := d }
          job := none
          err := some .bus
          errInfoLo := BitVec.ofNat 32 a
          errInfoHi := BitVec.ofNat 32 (a / 2 ^ 32) } := by
  obtain ⟨m, d, h⟩ := s.settled_eq
  exact ⟨m, d, by rw [State.busEntry, h]; rfl⟩

/-- Acknowledgement changes DONE, ERR and ERR_INFO only. -/
theorem State.acknowledge_spec (s : State) (v : Word) :
    s.acknowledge v
      = { s with
          done := s.done && !v.getLsbD 1
          err := if v.getLsbD 2 then none else s.err
          errInfoLo := if v.getLsbD 2 then 0#32 else s.errInfoLo
          errInfoHi := if v.getLsbD 2 then 0#32 else s.errInfoHi } := by
  unfold State.acknowledge
  cases v.getLsbD 1 <;> cases v.getLsbD 2 <;> simp

/-- START is accepted or changes nothing. -/
theorem State.start_cases (s : State) :
    (s.job = none ∧ s.err = none ∧ s.start = s.accept) ∨ ((s.job ≠ none ∨ s.err ≠ none) ∧ s.start = s) := by
  unfold State.start State.busy State.errBit
  cases s.job <;> cases s.err <;> simp

/-- A reset leaves the configuration, the surroundings but for the count of draws, and memory but for what races made
free. -/
theorem State.resetBlock_spec (s : State) :
    ∃ m d, s.resetBlock = State.blockReset s.cfg m { s.env with draws := d } := by
  unfold State.resetBlock
  split
  · obtain ⟨m, d, h⟩ := s.settled_eq
    exact ⟨m, d, by rw [h]⟩
  · exact ⟨s.mem, s.env.draws, rfl⟩

/-! ### Choosing -/

/-- A choice from a list: none only from the empty list; the rest is one shorter. -/
theorem pick_cases {α : Type} (k : Nat) (l : List α) :
    (l = [] ∧ pick k l = none) ∨
      (∃ v rest, pick k l = some (v, rest) ∧ v ∈ l ∧ rest.length + 1 = l.length ∧ ∀ w ∈ rest, w ∈ l) := by
  cases l with
  | nil => exact .inl ⟨rfl, rfl⟩
  | cons a t =>
    have hk : k % (a :: t).length < (a :: t).length := Nat.mod_lt _ (by simp)
    refine .inr ⟨(a :: t)[k % (a :: t).length], (a :: t).eraseIdx (k % (a :: t).length), ?_, ?_, ?_, ?_⟩
    · simp only [pick, List.getElem?_eq_getElem hk]
    · exact List.getElem_mem hk
    · rw [List.length_eraseIdx_of_lt hk]; simp
    · exact fun w hw => List.mem_of_mem_eraseIdx hw

/-- The first choice takes the head. -/
@[simp] theorem pick_zero_cons {α : Type} (a : α) (l : List α) : pick 0 (a :: l) = some (a, l) := by
  simp [pick]

@[simp] theorem pick_nil {α : Type} (k : Nat) : pick k ([] : List α) = none := by
  simp [pick]

end Sys2Proof.Machine
end

