-- ==== Sys2Proof/Laws/Engine.lean ====
section
/-! SUPPORT. The engine: every command but NOP runs the shared job loop; what one engine step can do; what holds of every
engine step holds of a run. -/

namespace Sys2Proof.Machine

/-- Every command but NOP is its `JobOp` under the shared loop. -/
theorem exec_eq_runJob {i : Instr} {op : JobOp} {c : Cmd} (h : jobOf i = some (op, c)) (s : State) :
    exec i s = runJob op c s := by
  cases i <;> simp only [jobOf, Option.some.injEq, Prod.mk.injEq, reduceCtorEq] at h <;> obtain ⟨rfl, rfl⟩ := h <;> rfl

/-- Only NOP has no `JobOp`. -/
theorem jobOf_none {i : Instr} (h : jobOf i = none) : i = .nop := by
  cases i <;> simp_all [jobOf]

/-- What every engine step keeps, a run keeps. -/
theorem engineRun_invariant {g : Job → State → State} {P : State → Prop}
    (hg : ∀ j s, s.job = some j → P s → P (g j s)) : ∀ n s, P s → P (engineRun g n s)
  | 0, _, h => h
  | n + 1, s, h => by
    rw [engineRun]
    split
    · exact h
    · next j hj => exact engineRun_invariant hg n _ (hg j s hj h)

/-- A run with no job is over. -/
theorem engineRun_none {g : Job → State → State} {s : State} (h : s.job = none) : ∀ n, engineRun g n s = s
  | 0 => rfl
  | n + 1 => by rw [engineRun, h]

theorem engineRun_some {g : Job → State → State} {s : State} {j : Job} (h : s.job = some j) (n : Nat) :
    engineRun g (n + 1) s = engineRun g n (g j s) := by rw [engineRun, h]

/-- A single access ends the job with BUS, or reads one element, or writes one, or (in no reachable state) only turns the
pixel over. -/
theorem pixelStep_cases (op : JobOp) (x : JobCtx) (j : Job) (a : Nat) (px : Pixel) (others : List Pixel) (s : State) :
    (∃ b, pixelStep op x j a px others s = s.busEntry b)
    ∨ (∃ cur, pixelStep op x j a px others s = { s with job := some { j with cursor := cur } })
    ∨ ∃ w cur, busFault s.cfg w.access true = false
        ∧ pixelStep op x j a px others s = { s.storeElem w with job := some { j with cursor := cur } } := by
  unfold pixelStep
  split
  · split
    · exact .inr (.inl ⟨_, rfl⟩)
    · split
      · exact .inl ⟨_, rfl⟩
      · exact .inr (.inl ⟨_, rfl⟩)
  · split
    · exact .inr (.inl ⟨_, rfl⟩)
    · split
      · exact .inl ⟨_, rfl⟩
      · next h => exact .inr (.inr ⟨_, _, by simpa using h, rfl⟩)

/-- A step of the traversal: the completion, or an access. -/
theorem accessStep_cases (op : JobOp) (x : JobCtx) (j : Job) (s : State) :
    accessStep op x j s = s.settled.complete
    ∨ ∃ a px others, accessStep op x j s
        = pixelStep op x j a px others { s with env := { s.env with tape := s.env.tape.tail } } := by
  rcases h : pick (s.env.tape.headD (0, 0)).1 j.cursor with _ | ⟨px, others⟩
  · exact .inl (by simp only [accessStep, h])
  · exact .inr ⟨(s.env.tape.headD (0, 0)).2, px, others, by simp only [accessStep, h]⟩

/-- What one engine step can do (R503): an error entry, the end of the check step, an ending without an access, the table
fill, the completion, or an access. -/
theorem engineStep_cases (op : JobOp) (c : Cmd) (j : Job) (s : State) :
    (∃ code lo hi, engineStep op c j s = s.settled.errorEntry code lo hi)
    ∨ (∃ j', engineStep op c j s = { s with job := some j' })
    ∨ (∃ q, engineStep op c j s = State.complete { s.settled with pixOut := q })
    ∨ (∃ f : Fields, engineStep op c j s
        = { s with lut := lutFor s.cfg.elem f.tf j.args.gamma, job := some { j with phase := .traverse } })
    ∨ engineStep op c j s = s.settled.complete
    ∨ ∃ x a px others, engineStep op c j s
        = pixelStep op x j a px others { s with env := { s.env with tape := s.env.tape.tail } } := by
  unfold engineStep
  split
  · exact .inl ⟨_, _, _, rfl⟩
  · next f hf =>
    dsimp only
    split
    · unfold checkStep
      split
      · exact .inl ⟨_, _, _, rfl⟩
      · exact .inr (.inl ⟨_, rfl⟩)
    · unfold finishStep
      split
      · exact .inr (.inr (.inl ⟨_, rfl⟩))
      · exact .inr (.inr (.inl ⟨s.settled.pixOut, rfl⟩))
    · exact .inr (.inr (.inr (.inl ⟨f, rfl⟩)))
    · exact (accessStep_cases op _ j s).elim (fun h => .inr (.inr (.inr (.inr (.inl h)))))
        fun ⟨a, px, others, h⟩ => .inr (.inr (.inr (.inr (.inr ⟨_, a, px, others, h⟩))))

/-! ### Footprints -/

/-- The reserved codes are the only ones with another reading. -/
theorem readings_of_resolve {c : Cmd} {f : Fields} (h : resolve c = some f) : readings c = [f] := by
  obtain ⟨sl, st, dl, dt, tf, am, imm, pos, sp⟩ := c
  cases st <;> cases dt <;> cases tf <;> cases am <;> cases sp <;>
    simp only [resolve, reduceCtorEq, Option.some.injEq] at h
  subst h; rfl

/-- Every reading agrees with the codes that are not reserved. -/
theorem reads_of_mem_readings {c : Cmd} {f : Fields} (h : f ∈ readings c) : Reads c f := by
  obtain ⟨sl, st, dl, dt, tf, am, imm, pos, sp⟩ := c
  simp only [readings, List.mem_flatMap, List.mem_map] at h
  obtain ⟨t, ht, u, hu, rfl⟩ := h
  refine ⟨rfl, rfl, ?_, ?_, ?_, ?_, rfl, rfl, ?_⟩
  · rintro v rfl; exact List.mem_singleton.mp ht
  · rintro v rfl; exact List.mem_singleton.mp hu
  · rintro v rfl; rfl
  · rintro v rfl; rfl
  · rintro v rfl; rfl

/-- A reading exists for every choice of the types that the type codes allow. -/
theorem mem_readings_types {c : Cmd} {f : Fields} (h : Reads c f) :
    ∃ g ∈ readings c, g.sl = f.sl ∧ g.dl = f.dl ∧ g.st = f.st ∧ g.dt = f.dt ∧ g.imm = f.imm ∧ g.pos = f.pos := by
  have key : ∀ (k : TypeCode) (t : ElemType), (∀ v, k = .elem v → t = v) → t ∈ typeReadings k := by
    intro k t hk
    cases k with
    | elem v => rw [hk v rfl]; exact List.mem_singleton.mpr rfl
    | reserved => cases t <;> simp [typeReadings]
  refine ⟨⟨c.srcLayout, f.st, c.dstLayout, f.dt, tfReading c.tf, amodeReading c.amode, c.imm, c.pos.val,
    spaceReading c.space⟩, ?_, h.srcLayout.symm, h.dstLayout.symm, rfl, rfl, h.imm.symm, h.pos.symm⟩
  simp only [readings, List.mem_flatMap, List.mem_map]
  exact ⟨f.st, key _ _ h.srcType, f.dt, key _ _ h.dstType, rfl⟩

/-- A word whose reserved bits are 0 stays as it is. -/
theorem clearReserved_of_zero {w : Word} (h : bits w 23 1 = 0) (h' : bits w 29 3 = 0) : clearReserved w = w := by
  have hm : (0x1F7FFFFF#32).toNat = 2 ^ 29 - 1 - 2 ^ 23 := rfl
  have h1 : ∀ k : Nat, (23 = k ∨ 29 ≤ k) → w.getLsbD k = false := by
    intro k hk
    unfold bits at h h'
    rw [BitVec.getLsbD, Nat.testBit_eq_decide_div_mod_eq]
    have hw := w.isLt
    apply decide_eq_false
    rcases hk with rfl | hk
    · omega
    · have : w.toNat / 2 ^ k = 0 := by
        apply Nat.div_eq_of_lt
        exact Nat.lt_of_lt_of_le (by omega : w.toNat < 2 ^ 29) (Nat.pow_le_pow_right (by omega) hk)
      omega
  apply BitVec.eq_of_getLsbD_eq
  intro k hk
  rw [clearReserved, BitVec.getLsbD_and]
  by_cases hr : 23 = k ∨ 29 ≤ k
  · rw [h1 k hr, Bool.false_and]
  · have : (0x1F7FFFFF#32).getLsbD k = true := by
      have h29 : k < 29 := by omega
      have h23 : k ≠ 23 := by omega
      clear * - h29 h23
      interval_cases k <;> first | rfl | exact absurd rfl h23
    rw [this, Bool.and_true]

/-- A word that decodes to a command other than NOP has no reserved bit to clear. -/
theorem decode_clearReserved {w : Word} {i : Instr} (h : decode w = .ok i) (hn : i ≠ .nop) : clearReserved w = w := by
  unfold decode at h
  split at h
  · cases h; exact absurd rfl hn
  · split at h
    · cases h
    · next hr => exact clearReserved_of_zero (by omega) (by omega)

/-- A run of a command in a machine with no pending host action is the run to its end. -/
theorem runJob_alone {op : JobOp} {c : Cmd} {s : State} {j : Job} (hj : s.job = some j) (hi : s.env.inputs = []) :
    runJob op c s = .next (engineRun (engineStep op c) (stepsLeft op c s.cfg j) s).spend := by
  simp [runJob, hj, State.slots, hi]

/-- Giving the turn to the host changes nothing when there is no host action. -/
theorem State.spend_nil {s : State} (h : s.env.inputs = []) : s.spend = s := by
  simp [State.spend, h]

/-- Every command's meaning answers a next state. -/
theorem exec_next (i : Instr) (s : State) : ∃ t, exec i s = .next t := by
  cases h : jobOf i with
  | none =>
    rw [jobOf_none h]
    simp only [exec, execNop]
    cases s.job with
    | none => exact ⟨s, rfl⟩
    | some j => exact ⟨_, rfl⟩
  | some p =>
    rw [exec_eq_runJob (op := p.1) (c := p.2) h, runJob]
    cases s.job with
    | none => exact ⟨s, rfl⟩
    | some j => exact ⟨_, rfl⟩

end Sys2Proof.Machine
end

