-- ==== Sys2Proof/Laws/PerInstr.lean ====
section
/-! SUPPORT. A statement about every command as syntax, one lemma per command: its encoding carries its opcode and leaves
the reserved bits zero. -/

namespace Sys2Proof.Laws.Encoding

/-- R141, R149, R150: OP is in bits 7:0, and bits 23 and 31:29 are zero. -/
def Statement (i : Instr) : Prop :=
  bits (encode i) 0 8 = i.opcode ∧ bits (encode i) 23 1 = 0 ∧ bits (encode i) 29 3 = 0

theorem layout_code_lt (l : Layout) : l.code < 4 := by cases l <;> decide
theorem type_code_lt (t : TypeCode) : t.code < 4 := by
  cases t with
  | elem t => cases t <;> decide
  | reserved => decide
theorem tf_code_lt (t : TfCode) : t.code < 16 := by
  cases t with
  | curve c => cases c <;> decide
  | reserved k => have := k.isLt; simp only [TfCode.code]; omega
theorem amode_code_lt (a : AmodeCode) : a.code < 4 := by
  cases a with
  | mode m => cases m <;> decide
  | reserved => decide
theorem space_code_lt (s : SpaceCode) : s.code < 8 := by
  cases s with
  | space s => cases s <;> decide
  | reserved k => have := k.isLt; simp only [SpaceCode.code]; omega
theorem imm_code_lt (b : Bool) : b.toNat < 2 := by cases b <;> decide

/-- The fields of a command, placed: nothing below bit 8, none in bit 23 or above bit 28. -/
theorem fields_bits (c : Cmd) (op : Nat) (h : op < 256) :
    (op + encodeFields c) % 2 ^ 32 % 2 ^ 8 = op ∧ (op + encodeFields c) % 2 ^ 32 / 2 ^ 23 % 2 ^ 1 = 0
      ∧ (op + encodeFields c) % 2 ^ 32 / 2 ^ 29 % 2 ^ 3 = 0 := by
  have h1 := layout_code_lt c.srcLayout
  have h2 := type_code_lt c.srcType
  have h3 := layout_code_lt c.dstLayout
  have h4 := type_code_lt c.dstType
  have h5 := tf_code_lt c.tf
  have h6 := amode_code_lt c.amode
  have h7 := imm_code_lt c.imm
  have h8 := c.pos.isLt
  have h9 := space_code_lt c.space
  unfold encodeFields
  omega

/-- Every command with fields. -/
theorem of_cmd {i : Instr} {c : Cmd} (hc : i.cmd? = some c) (h : i.opcode < 256) : Statement i := by
  have := fields_bits c i.opcode h
  simpa [Statement, encode, hc, bits, BitVec.toNat_ofNat] using this

theorem nop : Statement .nop := by unfold Statement; decide
theorem linearize (c : Cmd) : Statement (.linearize c) := of_cmd rfl (by simp [Instr.opcode])
theorem gamma (c : Cmd) : Statement (.gamma c) := of_cmd rfl (by simp [Instr.opcode])
theorem rgbToXyz (c : Cmd) : Statement (.rgbToXyz c) := of_cmd rfl (by simp [Instr.opcode])
theorem xyzToRgb (c : Cmd) : Statement (.xyzToRgb c) := of_cmd rfl (by simp [Instr.opcode])
theorem rgbToLab (c : Cmd) : Statement (.rgbToLab c) := of_cmd rfl (by simp [Instr.opcode])
theorem labToRgb (c : Cmd) : Statement (.labToRgb c) := of_cmd rfl (by simp [Instr.opcode])
theorem rgbToLuv (c : Cmd) : Statement (.rgbToLuv c) := of_cmd rfl (by simp [Instr.opcode])
theorem luvToRgb (c : Cmd) : Statement (.luvToRgb c) := of_cmd rfl (by simp [Instr.opcode])
theorem rgbToLch (c : Cmd) : Statement (.rgbToLch c) := of_cmd rfl (by simp [Instr.opcode])
theorem lchToRgb (c : Cmd) : Statement (.lchToRgb c) := of_cmd rfl (by simp [Instr.opcode])
theorem rgbToOklab (c : Cmd) : Statement (.rgbToOklab c) := of_cmd rfl (by simp [Instr.opcode])
theorem oklabToRgb (c : Cmd) : Statement (.oklabToRgb c) := of_cmd rfl (by simp [Instr.opcode])
theorem rgbToOklch (c : Cmd) : Statement (.rgbToOklch c) := of_cmd rfl (by simp [Instr.opcode])
theorem oklchToRgb (c : Cmd) : Statement (.oklchToRgb c) := of_cmd rfl (by simp [Instr.opcode])
theorem rgbToJzazbz (c : Cmd) : Statement (.rgbToJzazbz c) := of_cmd rfl (by simp [Instr.opcode])
theorem jzazbzToRgb (c : Cmd) : Statement (.jzazbzToRgb c) := of_cmd rfl (by simp [Instr.opcode])
theorem rgbToJzczhz (c : Cmd) : Statement (.rgbToJzczhz c) := of_cmd rfl (by simp [Instr.opcode])
theorem jzczhzToRgb (c : Cmd) : Statement (.jzczhzToRgb c) := of_cmd rfl (by simp [Instr.opcode])
theorem rgbToHsv (c : Cmd) : Statement (.rgbToHsv c) := of_cmd rfl (by simp [Instr.opcode])
theorem hsvToRgb (c : Cmd) : Statement (.hsvToRgb c) := of_cmd rfl (by simp [Instr.opcode])
theorem rgbToHsl (c : Cmd) : Statement (.rgbToHsl c) := of_cmd rfl (by simp [Instr.opcode])
theorem hslToRgb (c : Cmd) : Statement (.hslToRgb c) := of_cmd rfl (by simp [Instr.opcode])
theorem rgbToSigmoid (c : Cmd) : Statement (.rgbToSigmoid c) := of_cmd rfl (by simp [Instr.opcode])
theorem sigmoidToRgb (c : Cmd) : Statement (.sigmoidToRgb c) := of_cmd rfl (by simp [Instr.opcode])
theorem rgbToLalphabeta (c : Cmd) : Statement (.rgbToLalphabeta c) := of_cmd rfl (by simp [Instr.opcode])
theorem lalphabetaToRgb (c : Cmd) : Statement (.lalphabetaToRgb c) := of_cmd rfl (by simp [Instr.opcode])
theorem xyzToLab (c : Cmd) : Statement (.xyzToLab c) := of_cmd rfl (by simp [Instr.opcode])
theorem labToXyz (c : Cmd) : Statement (.labToXyz c) := of_cmd rfl (by simp [Instr.opcode])
theorem xyzToLuv (c : Cmd) : Statement (.xyzToLuv c) := of_cmd rfl (by simp [Instr.opcode])
theorem luvToXyz (c : Cmd) : Statement (.luvToXyz c) := of_cmd rfl (by simp [Instr.opcode])
theorem luvToLch (c : Cmd) : Statement (.luvToLch c) := of_cmd rfl (by simp [Instr.opcode])
theorem lchToLuv (c : Cmd) : Statement (.lchToLuv c) := of_cmd rfl (by simp [Instr.opcode])
theorem oklabToOklch (c : Cmd) : Statement (.oklabToOklch c) := of_cmd rfl (by simp [Instr.opcode])
theorem oklchToOklab (c : Cmd) : Statement (.oklchToOklab c) := of_cmd rfl (by simp [Instr.opcode])
theorem xyzToJzazbz (c : Cmd) : Statement (.xyzToJzazbz c) := of_cmd rfl (by simp [Instr.opcode])
theorem jzazbzToXyz (c : Cmd) : Statement (.jzazbzToXyz c) := of_cmd rfl (by simp [Instr.opcode])
theorem jzazbzToJzczhz (c : Cmd) : Statement (.jzazbzToJzczhz c) := of_cmd rfl (by simp [Instr.opcode])
theorem jzczhzToJzazbz (c : Cmd) : Statement (.jzczhzToJzazbz c) := of_cmd rfl (by simp [Instr.opcode])
theorem xyzToLalphabeta (c : Cmd) : Statement (.xyzToLalphabeta c) := of_cmd rfl (by simp [Instr.opcode])
theorem lalphabetaToXyz (c : Cmd) : Statement (.lalphabetaToXyz c) := of_cmd rfl (by simp [Instr.opcode])
theorem copy (c : Cmd) : Statement (.copy c) := of_cmd rfl (by simp [Instr.opcode])
theorem expand (c : Cmd) : Statement (.expand c) := of_cmd rfl (by simp [Instr.opcode])
theorem strip (c : Cmd) : Statement (.strip c) := of_cmd rfl (by simp [Instr.opcode])
theorem deinterleave (c : Cmd) : Statement (.deinterleave c) := of_cmd rfl (by simp [Instr.opcode])
theorem interleave (c : Cmd) : Statement (.interleave c) := of_cmd rfl (by simp [Instr.opcode])
theorem pack565 (c : Cmd) : Statement (.pack565 c) := of_cmd rfl (by simp [Instr.opcode])
theorem unpack565Shifted (c : Cmd) : Statement (.unpack565Shifted c) := of_cmd rfl (by simp [Instr.opcode])
theorem unpack565Scaled (c : Cmd) : Statement (.unpack565Scaled c) := of_cmd rfl (by simp [Instr.opcode])
theorem pack1010102 (c : Cmd) : Statement (.pack1010102 c) := of_cmd rfl (by simp [Instr.opcode])
theorem unpack1010102Shifted (c : Cmd) : Statement (.unpack1010102Shifted c) := of_cmd rfl (by simp [Instr.opcode])
theorem unpack1010102Scaled (c : Cmd) : Statement (.unpack1010102Scaled c) := of_cmd rfl (by simp [Instr.opcode])
theorem distEuclid (c : Cmd) : Statement (.distEuclid c) := of_cmd rfl (by simp [Instr.opcode])
theorem distTaxicab (c : Cmd) : Statement (.distTaxicab c) := of_cmd rfl (by simp [Instr.opcode])
theorem cmpEq (c : Cmd) : Statement (.cmpEq c) := of_cmd rfl (by simp [Instr.opcode])

end Sys2Proof.Laws.Encoding
end

