-- ==== Sys2Proof/Tests/Slice0.lean ====
section
/-! SUPPORT. Tests: ill-formed terms, command words written out from the encoding (R156), the spec's own vectors
(95_test_vectors.md, all derived from the rules), and for each statement with hypotheses a witness that meets them. -/

namespace Sys2Proof.Tests

set_option Elab.async false

open Sys2Proof.Machine

/-! ### Well-formedness: each check refuses an ill-formed term -/

def plainCmd : Cmd := ⟨.rgb, .elem .u8, .rgb, .elem .f32, .curve .srgb, .mode .none, false, 0, .space .standard⟩

theorem test_wellFormed_accepts : (Instr.rgbToLab plainCmd).wellFormed = true := by decide

theorem test_wellFormed_refuses :
    (Instr.rgbToLab { plainCmd with srcType := .reserved }).wellFormed = false
      ∧ (Instr.rgbToLab { plainCmd with dstType := .reserved }).wellFormed = false
      ∧ (Instr.rgbToLab { plainCmd with tf := .reserved 4 }).wellFormed = false
      ∧ (Instr.rgbToLab { plainCmd with amode := .reserved }).wellFormed = false
      ∧ (Instr.rgbToLab { plainCmd with space := .reserved 0 }).wellFormed = false := by decide

/-! ### Decoding: words written out from R156, bits 28:26 SPACE, 25:24 POS, 22 IMM, 21:20 AMODE, 19:16 TF, 15:14 and
13:12 the destination's type and layout, 11:10 and 9:8 the source's, 7:0 OP -/

theorem test_decode_transfer :
    decodeTableWord 32 0x00018001 = some (.linearize ⟨.rgb, .elem .u8, .rgb, .elem .f32, .curve .srgb, .mode .none, false, 0, .space .standard⟩)
      ∧ decodeTableWord 32 0x00010802 = some (.gamma ⟨.rgb, .elem .f32, .rgb, .elem .u8, .curve .srgb, .mode .none, false, 0, .space .standard⟩) := by decide +kernel

theorem test_decode_forward :
    decodeTableWord 32 0x00018010 = some (.rgbToXyz ⟨.rgb, .elem .u8, .rgb, .elem .f32, .curve .srgb, .mode .none, false, 0, .space .standard⟩)
      ∧ decodeTableWord 32 0x00119112 = some (.rgbToLab ⟨.rgba, .elem .u8, .rgba, .elem .f32, .curve .srgb, .mode .pass, false, 0, .space .standard⟩)
      ∧ decodeTableWord 32 0x00229014 = some (.rgbToLuv ⟨.rgb, .elem .u8, .rgba, .elem .f32, .curve .rec709, .mode .const, false, 0, .space .standard⟩)
      ∧ decodeTableWord 32 0x00038216 = some (.rgbToLch ⟨.bgr, .elem .u8, .rgb, .elem .f32, .curve .rec2020, .mode .none, false, 0, .space .standard⟩)
      ∧ decodeTableWord 32 0x00048418 = some (.rgbToOklab ⟨.rgb, .elem .u16, .rgb, .elem .f32, .curve .rec601, .mode .none, false, 0, .space .standard⟩)
      ∧ decodeTableWord 32 0x0005801A = some (.rgbToOklch ⟨.rgb, .elem .u8, .rgb, .elem .f32, .curve .smpte428, .mode .none, false, 0, .space .standard⟩)
      ∧ decodeTableWord 32 0x0006831C = some (.rgbToJzazbz ⟨.bgra, .elem .u8, .rgb, .elem .f32, .curve .log100, .mode .none, false, 0, .space .standard⟩)
      ∧ decodeTableWord 32 0x0007801E = some (.rgbToJzczhz ⟨.rgb, .elem .u8, .rgb, .elem .f32, .curve .log100Sqrt10, .mode .none, false, 0, .space .standard⟩)
      ∧ decodeTableWord 32 0x00008020 = some (.rgbToHsv ⟨.rgb, .elem .u8, .rgb, .elem .f32, .curve .none, .mode .none, false, 0, .space .standard⟩)
      ∧ decodeTableWord 32 0x00008022 = some (.rgbToHsl ⟨.rgb, .elem .u8, .rgb, .elem .f32, .curve .none, .mode .none, false, 0, .space .standard⟩)
      ∧ decodeTableWord 32 0x00488824 = some (.rgbToSigmoid ⟨.rgb, .elem .f32, .rgb, .elem .f32, .curve .pq, .mode .none, true, 0, .space .standard⟩)
      ∧ decodeTableWord 32 0x00098026 = some (.rgbToLalphabeta ⟨.rgb, .elem .u8, .rgb, .elem .f32, .curve .hlg, .mode .none, false, 0, .space .standard⟩) := by decide +kernel

theorem test_decode_inverse :
    decodeTableWord 32 0x00010811 = some (.xyzToRgb ⟨.rgb, .elem .f32, .rgb, .elem .u8, .curve .srgb, .mode .none, false, 0, .space .standard⟩)
      ∧ decodeTableWord 32 0x00211813 = some (.labToRgb ⟨.rgb, .elem .f32, .rgba, .elem .u8, .curve .srgb, .mode .const, false, 0, .space .standard⟩)
      ∧ decodeTableWord 32 0x00012815 = some (.luvToRgb ⟨.rgb, .elem .f32, .bgr, .elem .u8, .curve .srgb, .mode .none, false, 0, .space .standard⟩)
      ∧ decodeTableWord 32 0x00014817 = some (.lchToRgb ⟨.rgb, .elem .f32, .rgb, .elem .u16, .curve .srgb, .mode .none, false, 0, .space .standard⟩)
      ∧ decodeTableWord 32 0x000A0819 = some (.oklabToRgb ⟨.rgb, .elem .f32, .rgb, .elem .u8, .curve .power, .mode .none, false, 0, .space .standard⟩)
      ∧ decodeTableWord 32 0x00113D1B = some (.oklchToRgb ⟨.rgba, .reserved, .bgra, .elem .u8, .curve .srgb, .mode .pass, false, 0, .space .standard⟩)
      ∧ decodeTableWord 32 0x0001081D = some (.jzazbzToRgb ⟨.rgb, .elem .f32, .rgb, .elem .u8, .curve .srgb, .mode .none, false, 0, .space .standard⟩)
      ∧ decodeTableWord 32 0x0041081F = some (.jzczhzToRgb ⟨.rgb, .elem .f32, .rgb, .elem .u8, .curve .srgb, .mode .none, true, 0, .space .standard⟩)
      ∧ decodeTableWord 32 0x00000821 = some (.hsvToRgb ⟨.rgb, .elem .f32, .rgb, .elem .u8, .curve .none, .mode .none, false, 0, .space .standard⟩)
      ∧ decodeTableWord 32 0x00000823 = some (.hslToRgb ⟨.rgb, .elem .f32, .rgb, .elem .u8, .curve .none, .mode .none, false, 0, .space .standard⟩)
      ∧ decodeTableWord 32 0x00008825 = some (.sigmoidToRgb ⟨.rgb, .elem .f32, .rgb, .elem .f32, .curve .none, .mode .none, false, 0, .space .standard⟩)
      ∧ decodeTableWord 32 0x00010827 = some (.lalphabetaToRgb ⟨.rgb, .elem .f32, .rgb, .elem .u8, .curve .srgb, .mode .none, false, 0, .space .standard⟩) := by decide +kernel

theorem test_decode_floatKernel :
    decodeTableWord 32 0x00008830 = some (.xyzToLab ⟨.rgb, .elem .f32, .rgb, .elem .f32, .curve .none, .mode .none, false, 0, .space .standard⟩)
      ∧ decodeTableWord 32 0x00008831 = some (.labToXyz ⟨.rgb, .elem .f32, .rgb, .elem .f32, .curve .none, .mode .none, false, 0, .space .standard⟩)
      ∧ decodeTableWord 32 0x00008832 = some (.xyzToLuv ⟨.rgb, .elem .f32, .rgb, .elem .f32, .curve .none, .mode .none, false, 0, .space .standard⟩)
      ∧ decodeTableWord 32 0x00008833 = some (.luvToXyz ⟨.rgb, .elem .f32, .rgb, .elem .f32, .curve .none, .mode .none, false, 0, .space .standard⟩)
      ∧ decodeTableWord 32 0x00008834 = some (.luvToLch ⟨.rgb, .elem .f32, .rgb, .elem .f32, .curve .none, .mode .none, false, 0, .space .standard⟩)
      ∧ decodeTableWord 32 0x00109935 = some (.lchToLuv ⟨.rgba, .elem .f32, .rgba, .elem .f32, .curve .none, .mode .pass, false, 0, .space .standard⟩)
      ∧ decodeTableWord 32 0x00008836 = some (.oklabToOklch ⟨.rgb, .elem .f32, .rgb, .elem .f32, .curve .none, .mode .none, false, 0, .space .standard⟩)
      ∧ decodeTableWord 32 0x00008837 = some (.oklchToOklab ⟨.rgb, .elem .f32, .rgb, .elem .f32, .curve .none, .mode .none, false, 0, .space .standard⟩)
      ∧ decodeTableWord 32 0x00408838 = some (.xyzToJzazbz ⟨.rgb, .elem .f32, .rgb, .elem .f32, .curve .none, .mode .none, true, 0, .space .standard⟩)
      ∧ decodeTableWord 32 0x00008839 = some (.jzazbzToXyz ⟨.rgb, .elem .f32, .rgb, .elem .f32, .curve .none, .mode .none, false, 0, .space .standard⟩)
      ∧ decodeTableWord 32 0x0000883A = some (.jzazbzToJzczhz ⟨.rgb, .elem .f32, .rgb, .elem .f32, .curve .none, .mode .none, false, 0, .space .standard⟩)
      ∧ decodeTableWord 32 0x0000883B = some (.jzczhzToJzazbz ⟨.rgb, .elem .f32, .rgb, .elem .f32, .curve .none, .mode .none, false, 0, .space .standard⟩)
      ∧ decodeTableWord 32 0x0000883C = some (.xyzToLalphabeta ⟨.rgb, .elem .f32, .rgb, .elem .f32, .curve .none, .mode .none, false, 0, .space .standard⟩)
      ∧ decodeTableWord 32 0x0000883D = some (.lalphabetaToXyz ⟨.rgb, .elem .f32, .rgb, .elem .f32, .curve .none, .mode .none, false, 0, .space .standard⟩) := by decide +kernel

theorem test_decode_layout :
    decodeTableWord 32 0x00103140 = some (.copy ⟨.rgba, .elem .u8, .bgra, .elem .u8, .curve .none, .mode .pass, false, 0, .space .standard⟩)
      ∧ decodeTableWord 32 0x03201041 = some (.expand ⟨.rgb, .elem .u8, .rgba, .elem .u8, .curve .none, .mode .const, false, 3, .space .standard⟩)
      ∧ decodeTableWord 32 0x01000142 = some (.strip ⟨.rgba, .elem .u8, .rgb, .elem .u8, .curve .none, .mode .none, false, 1, .space .standard⟩)
      ∧ decodeTableWord 32 0x00004443 = some (.deinterleave ⟨.rgb, .elem .u16, .rgb, .elem .u16, .curve .none, .mode .none, false, 0, .space .standard⟩)
      ∧ decodeTableWord 32 0x00003344 = some (.interleave ⟨.bgra, .elem .u8, .bgra, .elem .u8, .curve .none, .mode .none, false, 0, .space .standard⟩) := by decide +kernel

theorem test_decode_packing :
    decodeTableWord 32 0x00000045 = some (.pack565 ⟨.rgb, .elem .u8, .rgb, .elem .u8, .curve .none, .mode .none, false, 0, .space .standard⟩)
      ∧ decodeTableWord 32 0x00004046 = some (.unpack565Shifted ⟨.rgb, .elem .u8, .rgb, .elem .u16, .curve .none, .mode .none, false, 0, .space .standard⟩)
      ∧ decodeTableWord 32 0x00601047 = some (.unpack565Scaled ⟨.rgb, .elem .u8, .rgba, .elem .u8, .curve .none, .mode .const, true, 0, .space .standard⟩)
      ∧ decodeTableWord 32 0x00100548 = some (.pack1010102 ⟨.rgba, .elem .u16, .rgb, .elem .u8, .curve .none, .mode .pass, false, 0, .space .standard⟩)
      ∧ decodeTableWord 32 0x00101049 = some (.unpack1010102Shifted ⟨.rgb, .elem .u8, .rgba, .elem .u8, .curve .none, .mode .pass, false, 0, .space .standard⟩)
      ∧ decodeTableWord 32 0x0010904A = some (.unpack1010102Scaled ⟨.rgb, .elem .u8, .rgba, .elem .f32, .curve .none, .mode .pass, false, 0, .space .standard⟩) := by decide +kernel

theorem test_decode_compare :
    decodeTableWord 32 0x00008850 = some (.distEuclid ⟨.rgb, .elem .f32, .rgb, .elem .f32, .curve .none, .mode .none, false, 0, .space .standard⟩)
      ∧ decodeTableWord 32 0x00008951 = some (.distTaxicab ⟨.rgba, .elem .f32, .rgb, .elem .f32, .curve .none, .mode .none, false, 0, .space .standard⟩)
      ∧ decodeTableWord 32 0x08000852 = some (.cmpEq ⟨.rgb, .elem .f32, .rgb, .elem .u8, .curve .none, .mode .none, false, 0, .space .lch⟩) := by decide +kernel

/-- R331: NOP whatever the other bits. -/
theorem test_decode_nop :
    decodeTableWord 32 0x00000000 = some .nop ∧ decodeTableWord 32 0xFFFFFF00 = some .nop := by decide +kernel

/-- R149, R154: reserved bits, reserved OP values and the custom space. -/
theorem test_decode_refuses :
    decodeTableWord 32 0x00818012 = none ∧ decodeTableWord 32 0x20018012 = none ∧ decodeTableWord 32 0x00000003 = none
      ∧ decodeTableWord 32 0x00000028 = none ∧ decodeTableWord 32 0x0000003E = none
      ∧ decodeTableWord 32 0x0000004B = none ∧ decodeTableWord 32 0x00000053 = none
      ∧ decodeTableWord 32 0x000000E0 = none := by decide +kernel

/-- R143, R144, R148: a reserved field code decodes, for the check step to refuse. -/
theorem test_decode_reserved_codes :
    decodeTableWord 32 0x0C0B8C52
      = some (.cmpEq ⟨.rgb, .reserved, .rgb, .elem .f32, .reserved 0, .mode .none, false, 0, .reserved 0⟩) := by
  decide +kernel

/-! ### One-step tests on a single pixel (R330), the pixels of 95_test_vectors.md sections 2.2 to 2.5 -/

/-- A just accepted IMM job of command word `cmd` on the pixel `p`, every other register at its reset value. -/
def pixelJob (cmd : Word) (p : Quad) : State :=
  State.accept { State.reset with regs := { Regs.reset with cmd := cmd, pixIn := p } }

/-- PIX_OUT after one step, if that step ends the job in DONE. -/
def pixelOf (cmd : Word) (p : Quad) : Option Quad :=
  match step (pixelJob cmd p) with
  | .next t => if t.done && t.job.isNone then some t.pixOut else none
  | _ => none

theorem test_rgbToXyz_pixel : pixelOf 0x00418010 ⟨0, 255, 0, 0⟩ = some ⟨0x420F07CB, 0x428F07CB, 0x413EB50B, 0⟩ := by
  decide +kernel

theorem test_xyzToRgb_pixel : pixelOf 0x00410811 ⟨0x420F07CB, 0x428F07CB, 0x413EB50B, 0⟩ = some ⟨0, 255, 0, 0⟩ := by
  decide +kernel

theorem test_rgbToLab_pixel : pixelOf 0x00418012 ⟨0, 255, 0, 0⟩ = some ⟨0x42AF782E, 0xC2AC5D8D, 0x42A65BD0, 0⟩ := by
  decide +kernel

theorem test_labToRgb_pixel : pixelOf 0x00410813 ⟨0x42AF782E, 0xC2AC5D8D, 0x42A65BD0, 0⟩ = some ⟨0, 255, 0, 0⟩ := by
  decide +kernel

theorem test_rgbToLuv_pixel : pixelOf 0x00418014 ⟨0, 255, 0, 0⟩ = some ⟨0x42AF782E, 0xC2A627B2, 0x42D6CC19, 0⟩ := by
  decide +kernel

theorem test_luvToRgb_pixel : pixelOf 0x00410815 ⟨0x42AF782E, 0xC2A627B2, 0x42D6CC19, 0⟩ = some ⟨0, 255, 0, 0⟩ := by
  decide +kernel

theorem test_rgbToLch_pixel : pixelOf 0x00418016 ⟨0, 255, 0, 0⟩ = some ⟨0x42AF782E, 0x4307C7CE, 0x400EAB25, 0⟩ := by
  decide +kernel

theorem test_lchToRgb_pixel : pixelOf 0x00410817 ⟨0x42AF782E, 0x4307C7CE, 0x400EAB25, 0⟩ = some ⟨0, 255, 0, 0⟩ := by
  decide +kernel

theorem test_rgbToOklab_pixel : pixelOf 0x00418018 ⟨0, 255, 0, 0⟩ = some ⟨0x3F5DCEFC, 0xBE6F802E, 0x3E37CE74, 0⟩ := by
  decide +kernel

theorem test_oklabToRgb_pixel : pixelOf 0x00410819 ⟨0x3F5DCEFC, 0xBE6F802E, 0x3E37CE74, 0⟩ = some ⟨0, 255, 0, 0⟩ := by
  decide +kernel

theorem test_rgbToOklch_pixel : pixelOf 0x0041801A ⟨0, 255, 0, 0⟩ = some ⟨0x3F5DCEFC, 0x3E96F394, 0x401F2B36, 0⟩ := by
  decide +kernel

theorem test_oklchToRgb_pixel : pixelOf 0x0041081B ⟨0x3F5DCEFC, 0x3E96F394, 0x401F2B36, 0⟩ = some ⟨0, 255, 0, 0⟩ := by
  decide +kernel

theorem test_rgbToJzazbz_pixel : pixelOf 0x0041801C ⟨0, 255, 0, 0⟩ = some ⟨0x3E070877, 0xBDBE2FDA, 0x3DCDF57A, 0⟩ := by
  decide +kernel

theorem test_jzazbzToRgb_pixel : pixelOf 0x0041081D ⟨0x3E070877, 0xBDBE2FDA, 0x3DCDF57A, 0⟩ = some ⟨0, 255, 0, 0⟩ := by
  decide +kernel

theorem test_rgbToJzczhz_pixel : pixelOf 0x0041801E ⟨0, 255, 0, 0⟩ = some ⟨0x3E070877, 0x3E0C2B6F, 0x40143FEE, 0⟩ := by
  decide +kernel

theorem test_jzczhzToRgb_pixel : pixelOf 0x0041081F ⟨0x3E070877, 0x3E0C2B6F, 0x40143FEE, 0⟩ = some ⟨0, 255, 0, 0⟩ := by
  decide +kernel

theorem test_rgbToHsv_pixel : pixelOf 0x00408020 ⟨0, 255, 0, 0⟩ = some ⟨0x42F00000, 0x3F800000, 0x3F800000, 0⟩ := by
  decide +kernel

theorem test_hsvToRgb_pixel : pixelOf 0x00400821 ⟨0x42F00000, 0x3F800000, 0x3F800000, 0⟩ = some ⟨0, 255, 0, 0⟩ := by
  decide +kernel

theorem test_rgbToHsl_pixel : pixelOf 0x00408022 ⟨0, 255, 0, 0⟩ = some ⟨0x42F00000, 0x3F800000, 0x3F000000, 0⟩ := by
  decide +kernel

theorem test_hslToRgb_pixel : pixelOf 0x00400823 ⟨0x42F00000, 0x3F800000, 0x3F000000, 0⟩ = some ⟨0, 255, 0, 0⟩ := by
  decide +kernel

theorem test_rgbToSigmoid_pixel : pixelOf 0x00408024 ⟨0, 255, 0, 0⟩ = some ⟨0x3F000000, 0x3F3B26A8, 0x3F000000, 0⟩ := by
  decide +kernel

theorem test_sigmoidToRgb_pixel : pixelOf 0x00400825 ⟨0x3F000000, 0x3F3B26A8, 0x3F000000, 0⟩ = some ⟨0, 255, 0, 0⟩ := by
  decide +kernel

theorem test_rgbToLalphabeta_pixel : pixelOf 0x00418026 ⟨0, 255, 0, 0⟩ = some ⟨0x402FC45E, 0x3F1FB41A, 0xBD8542CF, 0⟩ := by
  decide +kernel

theorem test_lalphabetaToRgb_pixel : pixelOf 0x00410827 ⟨0x402FC45E, 0x3F1FB41A, 0xBD8542CF, 0⟩ = some ⟨0, 255, 0, 0⟩ := by
  decide +kernel

theorem test_linearize_pixel : pixelOf 0x00414001 ⟨188, 10, 64, 0⟩ = some ⟨32957, 199, 3360, 0⟩ := by
  decide +kernel

theorem test_gamma_pixel : pixelOf 0x00410802 ⟨0x3F000000, 0x3FC00000, 0x7FC00000, 0⟩ = some ⟨188, 255, 0, 0⟩ := by
  decide +kernel

theorem test_xyzToLab_pixel : pixelOf 0x00408830 ⟨0x4224F5C3, 0x41AA147B, 0x3FF70A3D, 0⟩ = some ⟨0x4254EE78, 0x42A037FA, 0x428670AE, 0⟩ := by
  decide +kernel

theorem test_labToXyz_pixel : pixelOf 0x00408831 ⟨0x42480000, 0x41A00000, 0xC1F00000, 0⟩ = some ⟨0x41ABB6DD, 0x41935965, 0x4221DC9D, 0⟩ := by
  decide +kernel

theorem test_xyzToLuv_pixel : pixelOf 0x00408832 ⟨0x4224F5C3, 0x41AA147B, 0x3FF70A3D, 0⟩ = some ⟨0x4254EE78, 0x432F0D95, 0x42170084, 0⟩ := by
  decide +kernel

theorem test_luvToXyz_pixel : pixelOf 0x00408833 ⟨0x42480000, 0, 0, 0⟩ = some ⟨0x418C0D0D, 0x41935965, 0x41A07032, 0⟩ := by
  decide +kernel

theorem test_luvToLch_pixel : pixelOf 0x00408834 ⟨0x42480000, 0x40400000, 0x40800000, 0⟩ = some ⟨0x42480000, 0x40A00000, 0x3F6D6338, 0⟩ := by
  decide +kernel

theorem test_lchToLuv_pixel : pixelOf 0x00408835 ⟨0x42480000, 0x40A00000, 0x3F6D6338, 0⟩ = some ⟨0x42480000, 0x40400000, 0x40800000, 0⟩ := by
  decide +kernel

theorem test_oklabToOklch_pixel : pixelOf 0x00408836 ⟨0x3F000000, 0, 0xBDCCCCCD, 0⟩ = some ⟨0x3F000000, 0x3DCCCCCD, 0x4096CBE4, 0⟩ := by
  decide +kernel

theorem test_oklchToOklab_pixel : pixelOf 0x00408837 ⟨0x3F000000, 0x3DCCCCCD, 0x40490FDB, 0⟩ = some ⟨0x3F000000, 0xBDCCCCCD, 0xB21630F2, 0⟩ := by
  decide +kernel

theorem test_xyzToJzazbz_pixel : pixelOf 0x00408838 ⟨0x0DA24260, 0, 0, 0⟩ = some ⟨0x28F43400, 0x29524E00, 0x283F9000, 0⟩ := by
  decide +kernel

theorem test_jzazbzToXyz_pixel : pixelOf 0x00408839 ⟨0x3DCCCCCD, 0, 0, 0⟩ = some ⟨0x41E30578, 0x41EEB236, 0x4201DAA1, 0⟩ := by
  decide +kernel

theorem test_jzazbzToJzczhz_pixel : pixelOf 0x0040883A ⟨0x42480000, 0x40400000, 0xC0800000, 0⟩ = some ⟨0x42480000, 0x40A00000, 0x40AB6374, 0⟩ := by
  decide +kernel

theorem test_jzczhzToJzazbz_pixel : pixelOf 0x0040883B ⟨0x3DCCCCCD, 0x3C23D70A, 0x3FC90FDB, 0⟩ = some ⟨0x3DCCCCCD, 0xAFF04E4F, 0x3C23D70A, 0⟩ := by
  decide +kernel

theorem test_xyzToLalphabeta_pixel : pixelOf 0x0040883C ⟨0x42BE1810, 0x42C80000, 0x42D9C419, 0⟩ = some ⟨0x405EE334, 0xBD03C907, 0xBC537709, 0⟩ := by
  decide +kernel

theorem test_lalphabetaToXyz_pixel : pixelOf 0x0040883D ⟨0x33800000, 0, 0, 0⟩ = some ⟨0x3F800001, 0x3F800001, 0x3F800001, 0⟩ := by
  decide +kernel

theorem test_copy_pixel : pixelOf 0x00503140 ⟨1, 2, 3, 4⟩ = some ⟨3, 2, 1, 4⟩ := by
  decide +kernel

theorem test_expand_pixel : pixelOf 0x01501041 ⟨1, 2, 3, 9⟩ = some ⟨1, 9, 2, 3⟩ := by
  decide +kernel

theorem test_strip_pixel : pixelOf 0x01400142 ⟨1, 2, 3, 4⟩ = some ⟨1, 3, 4, 0⟩ := by
  decide +kernel

theorem test_pack565_pixel : pixelOf 0x00400045 ⟨255, 128, 0, 0⟩ = some ⟨64512, 0, 0, 0⟩ := by
  decide +kernel

theorem test_unpack565Shifted_pixel : pixelOf 0x00404046 ⟨64512, 0, 0, 0⟩ = some ⟨63488, 32768, 0, 0⟩ := by
  decide +kernel

theorem test_unpack565Scaled_pixel : pixelOf 0x00404047 ⟨64512, 0, 0, 0⟩ = some ⟨65535, 33288, 0, 0⟩ := by
  decide +kernel

theorem test_pack1010102_pixel : pixelOf 0x00500148 ⟨1, 2, 3, 64⟩ = some ⟨0x40C02004, 0, 0, 0⟩ := by
  decide +kernel

theorem test_unpack1010102Shifted_pixel : pixelOf 0x00505049 ⟨0xC00803FC, 0, 0, 0⟩ = some ⟨65280, 32768, 0, 49152⟩ := by
  decide +kernel

theorem test_unpack1010102Scaled_pixel : pixelOf 0x0050504A ⟨0xC00803FC, 0, 0, 0⟩ = some ⟨65343, 32800, 0, 65535⟩ := by
  decide +kernel

/-! ### One-step tests of the other commands, of the errors (95_test_vectors.md sections 2.6 and 2.7) and of the registers
(section 2.8) -/

/-- A just accepted job of latched registers `r`. -/
def jobState (cfg : Config) (r : Regs) (m : Memory) : State :=
  State.accept { State.reset with cfg := cfg, regs := r, mem := m }

/-- S at 0x1000, D at 0x2000, S2 at 0x3000, every stride 64, PLANE_PITCH 0x100. -/
def bufRegs (cmd w h : Word) : Regs :=
  { Regs.reset with
    cmd := cmd
    width := w
    height := h
    srcLo := 0x1000
    srcStride := 64
    dstLo := 0x2000
    dstStride := 64
    src2Lo := 0x3000
    src2Stride := 64
    planePitch := 0x100 }

def nextOf (s : State) : State :=
  match step s with
  | .next t => t
  | _ => s

def putBytes (a : Nat) (l : List Nat) : Memory :=
  l.zipIdx.foldl (fun m p => m.setByte (a + p.2) (BitVec.ofNat 8 p.1)) ⟨[]⟩

def bytesAt (m : Memory) (l : List Nat) : List Nat := l.map fun a => (m.byte a).toNat

theorem test_nop_done :
    (nextOf (jobState .reference (bufRegs 0xFFFFFF00 1 1) ⟨[]⟩)).statusWord = 0x00000002#32 := by decide +kernel

/-- Section 2.5: DEINTERLEAVE of (1, 2, 3, 4, 5, 6). -/
theorem test_deinterleave_job :
    bytesAt (nextOf (jobState .reference (bufRegs 0x00000043 2 1) (putBytes 0x1000 [1, 2, 3, 4, 5, 6]))).mem
      [0x2000, 0x2001, 0x2100, 0x2101, 0x2200, 0x2201] = [1, 4, 2, 5, 3, 6] := by decide +kernel

/-- Section 2.5: INTERLEAVE of those planes. -/
theorem test_interleave_job :
    bytesAt (nextOf (jobState .reference (bufRegs 0x00000044 2 1)
      ⟨(putBytes 0x1000 [1, 4]).cells ++ (putBytes 0x1100 [2, 5]).cells ++ (putBytes 0x1200 [3, 6]).cells⟩)).mem
      [0x2000, 0x2001, 0x2002, 0x2003, 0x2004, 0x2005] = [1, 2, 3, 4, 5, 6] := by decide +kernel

/-- The word at D after a compare job on the coordinates `a` at S and `b` at S2. -/
def compared (cmd : Word) (a b : List Nat) : Word :=
  let put := fun base l m => (l.zipIdx).foldl (fun (m : Memory) (p : Nat × Nat) =>
    m.write ⟨base + 4 * p.2, 4, BitVec.ofNat 32 p.1⟩) m
  (nextOf (jobState .reference (bufRegs cmd 1 1) (put 0x3000 b (put 0x1000 a ⟨[]⟩)))).mem.read ⟨0x2000, 4⟩

theorem test_distEuclid_job :
    compared 0x00008850 [0x4254F692, 0x42A02F57, 0x42866809] [0x42013024, 0x429E6004, 0xC2D7B867] = 0x43305065#32 := by
  decide +kernel

theorem test_distTaxicab_job :
    compared 0x00008851 [0x4254F692, 0x42A02F57, 0x42866809] [0x42013024, 0x429E6004, 0xC2D7B867] = 0x4344E97D#32 := by
  decide +kernel

theorem test_cmpEq_luv_zero :
    compared 0x04000852 [0, 0x41200000, 0xC1A00000] [0, 0xC0A00000, 0x40400000] = 1#32
      ∧ compared 0x00000852 [0, 0x41200000, 0xC1A00000] [0, 0xC0A00000, 0x40400000] = 0#32 := by decide +kernel

theorem test_cmpEq_lch_hue :
    compared 0x08000852 [0x42480000, 0, 0x7FC00000] [0x42480000, 0, 0x7FC00000] = 1#32
      ∧ compared 0x08000852 [0x42480000, 0x3F800000, 0] [0x42480000, 0x3F800000, 0x40C90FDB] = 0#32 := by
  decide +kernel

/-- Section 1.3 (program P1): EXPAND of a 2x2 red image. -/
theorem test_expand_job :
    bytesAt (nextOf (jobState .reference { bufRegs 0x03201041 2 2 with srcStride := 6, dstStride := 8 }
      (putBytes 0x1000 [255, 0, 0, 255, 0, 0, 255, 0, 0, 255, 0, 0]))).mem
      [0x2000, 0x2001, 0x2003, 0x2004, 0x200C, 0x200D, 0x200F, 0x2010] = [255, 0, 255, 255, 255, 0, 255, 0] := by
  decide +kernel

/-- STATUS, ERR_INFO_LO and ERR_INFO_HI after one step of a just accepted job. -/
def errorOf (cfg : Config) (r : Regs) : List Word :=
  let t := nextOf (jobState cfg r ⟨[]⟩)
  [t.statusWord, t.errInfoLo, t.errInfoHi]

theorem test_error_illegal :
    [0x00000003#32, 0x00818012#32, 0x000000E0#32, 0x00008C12#32, 0x00008001#32, 0x0C000852#32].map
        (fun w => errorOf .reference (bufRegs w 1 1))
      = [[0x104#32, 0x3#32, 0#32], [0x104#32, 0x00818012#32, 0#32], [0x104#32, 0xE0#32, 0#32],
        [0x104#32, 0x00008C12#32, 0#32], [0x104#32, 0x00008001#32, 0#32], [0x104#32, 0x0C000852#32, 0#32]] := by
  decide +kernel

theorem test_error_param :
    errorOf .reference { bufRegs 0x00018012 1 1 with xyzScale := 0 } = [0x204#32, 0x58#32, 0#32]
      ∧ errorOf .reference { bufRegs 0x000A8001 1 1 with gamma := 0xBF800000 } = [0x204#32, 0x54#32, 0xBF800000#32]
      ∧ errorOf .reference { bufRegs 0x00018012 1 1 with whiteY := 0x7FC00000 }
        = [0x204#32, 0x64#32, 0x7FC00000#32] := by decide +kernel

theorem test_error_alpha :
    errorOf .reference (bufRegs 0x00100040 1 1) = [0x304#32, 0x00100040#32, 0#32]
      ∧ errorOf .reference (bufRegs 0x03001041 1 1) = [0x304#32, 0x03001041#32, 0#32]
      ∧ errorOf .reference (bufRegs 0x00108850 1 1) = [0x304#32, 0x00108850#32, 0#32] := by decide +kernel

theorem test_error_align :
    errorOf .reference { bufRegs 0x00004440 1 1 with srcLo := 0x1001, srcStride := 6, dstStride := 6 }
        = [0x404#32, 0x1#32, 0#32]
      ∧ errorOf .reference { bufRegs 0x00004440 1 1 with srcStride := 7, dstStride := 6 }
        = [0x404#32, 0x101#32, 0#32]
      ∧ errorOf .reference { bufRegs 0x00004443 2 1 with srcStride := 12, dstStride := 4, planePitch := 0x101 }
        = [0x404#32, 0x21#32, 0#32] := by decide +kernel

theorem test_error_stride :
    errorOf .reference { bufRegs 0x00018012 4 1 with srcStride := 12, dstStride := 40 } = [0x504#32, 0x2#32, 0#32] := by
  decide +kernel

theorem test_error_range :
    errorOf { Config.reference with addrW := .w32 }
        { bufRegs 0x00101140 64 2 with srcLo := 0, srcStride := 0x100, dstLo := 0xFFFFFF00, dstStride := 0x100 }
        = [0x604#32, 0x2#32, 0#32]
      ∧ errorOf .reference { bufRegs 0x00000040 1 1 with srcLo := 0xFFFFFFFE, srcHi := 0xFFFFFFFF, srcStride := 3 }
        = [0x604#32, 0x1#32, 0#32] := by decide +kernel

theorem test_error_overlap :
    errorOf .reference { bufRegs 0x00103140 4 2 with dstLo := 0x1010, srcStride := 16, dstStride := 16 }
      = [0x704#32, 0x102#32, 0#32] := by decide +kernel

theorem test_error_bus :
    errorOf { Config.reference with busFaults := [⟨0x80000000, 0xFFFFFFFF, 1, true, true⟩] }
        { bufRegs 0x00000040 1 1 with dstLo := 0x80000000 } = [0x804#32, 0x80000000#32, 0#32] := by decide +kernel

/-- Section 2.8: an sRGB U8 job leaves the table valid, and LUT_INV drops it. -/
theorem test_table_status :
    let t := nextOf (jobState .reference (bufRegs 0x00018012 1 1) ⟨[]⟩)
    t.statusWord = 0x00110002#32 ∧ (t.regWrite 0x008 4 0x4).statusWord = 0x00000002#32 := by decide +kernel

theorem test_registers_after_reset :
    [0x000, 0x004, 0x008, 0x00C, 0x050, 0x054, 0x060, 0x07C, 0x100, 0x3E0].map State.reset.readReg
      = [0x43545001#32, 0x00000127#32, 0#32, 0#32, 0xFF#32, 0x400CCCCD#32, 0x42BE1810#32, 0#32, 0x3ED32D7C#32,
        0x3F800000#32] := by decide +kernel

theorem test_control_writes :
    (State.reset.regWrite 0x008 4 0x300).readReg 0x008 = 0x300#32
      ∧ (State.reset.regWrite 0x008 4 0x307).readReg 0x008 = 0#32
      ∧ ((State.reset.regWrite 0x054 4 0x3F800000).regWrite 0x008 4 2).readReg 0x054 = 0x400CCCCD#32
      ∧ State.reset.regWrite 0x00C 4 0xFFFFFFFF = State.reset
      ∧ State.reset.regWrite 0x000 4 0 = State.reset := by decide +kernel

/-- The host's START of a written CMD gives the job record that `withFetchWord` gives. -/
theorem test_host_start_latches :
    (nextOf { State.reset with
        regs := { Regs.reset with cmd := 0x0C000852 }
        env := { Env.reset with inputs := [⟨0, .regWrite 0x008 4 1⟩] } }).job
      = (State.reset.withFetchWord 32 0x0C000852).job := by decide +kernel

theorem test_withFetchWord_runs : (nextOf (State.reset.withFetchWord 32 0x0C000852)).statusWord = 0x104#32 := by
  decide +kernel

/-- R112 (b), (a): a raced destination byte is any value when the job ends, and of a raced source byte of COPY only the
element of its channel is. -/
theorem test_host_store_races :
    [[0x2001], [0x1001], [0x1003], [0x2003], [0x1001, 0x2001]].map (fun (l : List Nat) =>
        (nextOf (l.foldl (fun s a => s.hostStore a 7) (jobState .reference (bufRegs 0x00000040 1 1) ⟨[]⟩))).env.draws)
      = [1, 1, 0, 0, 2] := by decide +kernel

/-- A COPY of one pixel from 0x1000 to 0x2000, ended, and the START of a COPY of one pixel from `src` to `dst` before the
host has read STATUS. -/
def twoJobs (src dst : Word) : State :=
  State.start { nextOf (jobState .reference (bufRegs 0x00000040 1 1) ⟨[]⟩) with
    regs := { bufRegs 0x00000040 1 1 with srcLo := src, dstLo := dst } }

/-- R112 (a): a store to the first job's source frees its element at once, and at its end the second job's element that
reads it. -/
theorem test_store_frees_ended_job_at_once :
    let s := (twoJobs 0x2000 0x3000).hostStore 0x1000 7
    s.env.draws = 1 ∧ s.env.doomed = [0x3000] ∧ (nextOf s).env.draws = 2 := by decide +kernel

/-- R110: what the second job writes over the first job's element stays, though the first job's source is stored to
before it or after it. -/
theorem test_rewrite_survives :
    let s := (twoJobs 0x3000 0x2000).hostStore 0x1000 7
    s.env.draws = 1 ∧ s.env.doomed = [] ∧ (nextOf s).env.draws = 1 ∧ ((nextOf s).hostStore 0x1000 8).env.draws = 1 := by
  decide +kernel

/-- R118: a line dirtied beside the source of a running job, and dirty still when a NOP starts, costs that job nothing. -/
theorem test_dirty_line_leaves_earlier_job :
    let s := nextOf ((jobState { Config.reference with ioCoherent := false } (bufRegs 0x00000040 1 1) ⟨[]⟩).hostStore 0x1020 7)
    let t := State.start { s with regs := { s.regs with cmd := 0#32 } }
    t.busy = true ∧ t.env.past.length = 3 ∧ t.env.dirty = [0x1020] ∧ t.env.doomed = [] ∧ (nextOf t).env.draws = 0 := by
  decide +kernel

/-- R118: the destination of a refused job stays stale in the host's cache until an invalidate after STATUS is read. -/
theorem test_stale_after_refusal :
    let t := nextOf (jobState { Config.reference with ioCoherent := false } (bufRegs 0x00100040 1 1) ⟨[]⟩)
    t.env.stale = [0x2000, 0x2001, 0x2002] ∧ (t.cacheInvalidate 0x2000 64).env.stale = [0x2000, 0x2001, 0x2002]
      ∧ ((t.regRead 0x00C 4).hostLoad 0x2001).env.draws = 1
      ∧ ((t.regRead 0x00C 4).cacheInvalidate 0x2000 64).env.stale = [] := by decide +kernel

/-- R118: an invalidate of the destination of a job seen to end counts while a later job runs, and that of the later job's
destination does not. -/
theorem test_invalidate_during_later_job :
    let t := nextOf (jobState { Config.reference with ioCoherent := false } (bufRegs 0x00000040 1 1) ⟨[]⟩)
    let u := State.start { t.regRead 0x00C 4 with regs := { bufRegs 0x00000040 1 1 with dstLo := 0x2003 } }
    (u.cacheInvalidate 0x2000 64).env.stale = [0x2003, 0x2004, 0x2005] := by decide +kernel

/-- R152: what the layouts and types of a refused command fix is a footprint: a reserved bit, a reserved TF, a reserved
source type, a reserved destination type, and PACK565 of a reserved source type. -/
theorem test_refused_footprints :
    [0x00800040, 0x000B0040, 0x00000C40, 0x0000C040, 0x00000C45].map (fun w =>
        let e := (jobState .reference (bufRegs w 1 1) ⟨[]⟩).env
        (e.dests, e.plan.length))
      = [([⟨0x2000, 3⟩], 3), ([⟨0x2000, 3⟩], 3), ([⟨0x2000, 3⟩], 0), ([], 0), ([⟨0x2000, 2⟩], 1)] := by
  decide +kernel

/-! ### Constants are the nearest binary32 values of the decimals the rules print -/

theorem test_constants_from_decimals :
    [fRatio false 1 31, fRatio false 1 63, fRatio false 1 1023, fRatio false 1 3, fRatio false 22 10,
      fRatio false 95047 1000, fRatio false 108883 1000, fRatio false 4124564 10000000]
      = [k31Inv, k63Inv, k1023Inv, k3Inv, Regs.reset.gamma, Regs.reset.whiteX, Regs.reset.whiteZ,
        Bank.reset.rgb2xyz.m00] := by decide +kernel

/-! ### Witnesses: for each statement with hypotheses, a concrete state and operands that meet them together; for a
statement of several clauses, one for each, at the ends of the clause's range -/

/-- A just accepted job of latched registers `r` with memory empty: every premise about the start of a job. -/
theorem started (cfg : Config) (r : Regs) : Started (jobState cfg r ⟨[]⟩) ⟨r, .check, []⟩ := ⟨rfl, rfl, rfl⟩

/-- The command word numbered `w`, its operands, and its job on `q` columns and `y` rows. -/
def wd (w : Nat) : Word := BitVec.ofNat 32 w
def cmdAt (w : Nat) : Cmd := decodeFields (wd w)
def fieldsAt (w : Nat) : Fields := (resolve (cmdAt w)).getD ⟨.rgb, .u8, .rgb, .u8, .none, .none, false, 0, .standard⟩
def sc (w : Nat) (q y : Word) : State := jobState .reference (bufRegs (wd w) q y) ⟨[]⟩
def jb (w : Nat) (q y : Word) : Job := ⟨bufRegs (wd w) q y, .check, []⟩
def cx (w : Nat) (q y : Word) : JobCtx := ⟨.reference, bufRegs (wd w) q y, fieldsAt w⟩

/-- Nothing races with a job just accepted after reset. -/
theorem doomed_nil (w : Nat) (q y : Word) : (sc w q y).env.doomed = [] := startCost_nil ..

/-- What the statements over `jobOf` assume together, for word `w`, command `i` and its rules `op`. -/
def Scene (i : Cmd → Instr) (op : JobOp) (w : Nat) (q y : Word) : Prop :=
  jobOf (i (cmdAt w)) = some (op, cmdAt w) ∧ Started (sc w q y) (jb w q y)
    ∧ resolve (cmdAt w) = some (fieldsAt w) ∧ ctxOf (sc w q y) (jb w q y) (fieldsAt w) = cx w q y
    ∧ (sc w q y).env.tape = [] ∧ (sc w q y).env.doomed = [] ∧ FaultFree (sc w q y).cfg ∧ (sc w q y).mem.wf = true

theorem scene {i : Cmd → Instr} {op : JobOp} {w : Nat} {q y : Word} (hj : jobOf (i (cmdAt w)) = some (op, cmdAt w))
    (hr : resolve (cmdAt w) = some (fieldsAt w)) (hx : ctxOf (sc w q y) (jb w q y) (fieldsAt w) = cx w q y)
    (hm : (sc w q y).mem.wf = true) : Scene i op w q y :=
  ⟨hj, started _ _, hr, hx, rfl, doomed_nil _ _ _, ⟨rfl, rfl⟩, hm⟩

/-- With no race, no byte is raced. -/
theorem not_raced {s : State} (h : s.env.doomed = []) (b : Nat) : ¬Raced s b := by
  simp [Raced, h]

/-- Every register R359 can name, at its reset value or at an end of its legal range. -/
def edgeRegs : Regs := { Regs.reset with gamma := 1, xyzScale := 0x7F7FFFFF, jzLum := 1 }

theorem witness_positive_registers :
    (AllPositive Regs.reset [.xyzScale, .whiteX, .whiteY, .whiteZ] ∧ AllPositive Regs.reset [.xyzScale, .jzLum]
      ∧ AllPositive Regs.reset [.whiteX, .whiteY, .whiteZ] ∧ AllPositive Regs.reset [.xyzScale] ∧ GammaOk Regs.reset .power)
      ∧ AllPositive edgeRegs [.xyzScale, .jzLum] ∧ GammaOk edgeRegs .power := by
  unfold AllPositive GammaOk
  decide +kernel

theorem witness_DecodeThenEncode :
    decode 0x03201041#32 = .ok (.expand (cmdAt 0x03201041))
      ∧ Instr.expand (cmdAt 0x03201041) ≠ .nop := ⟨rfl, by decide⟩

theorem witness_StepRunsDecodedCommand :
    ((sc 0x40 1 1).job = some (jb 0x40 1 1) ∧ (sc 0x40 1 1).env.inputs = []
        ∧ decode 0x40#32 = .ok (.copy (cmdAt 0x40)))
      ∧ (let p : Input := ⟨1, .powerOnReset⟩; [p] = p :: [] ∧ p.after ≠ 0)
      ∧ State.reset.job = none ∧ State.reset.env.inputs = [] := by
  refine ⟨⟨rfl, rfl, rfl⟩, ⟨rfl, by decide⟩, rfl, rfl⟩

theorem witness_ReservedBitsAreIllegal :
    Started (sc 0x00800001 1 1) (jb 0x00800001 1 1)
      ∧ (∀ w ∈ [0x00800001, 0x20000001, 0x80000001, 0xE0000001],
        bits (wd w) 0 8 ≠ 0 ∧ (bits (wd w) 23 1 ≠ 0 ∨ bits (wd w) 29 3 ≠ 0)) := ⟨started _ _, by decide +kernel⟩

theorem witness_UnlistedOpcodesAreIllegal :
    Started (sc 3 1 1) (jb 3 1 1)
      ∧ (∀ w ∈ [3, 4, 0xF, 0x28, 0x2F, 0x3E, 0x3F, 0x4B, 0x4F, 0x53, 0xFF],
        let op := bits (wd w) 0 8
        op = 3 ∨ (3 < op ∧ op < 0x10) ∨ (0x27 < op ∧ op < 0x30) ∨ (0x3D < op ∧ op < 0x40) ∨ (0x4A < op ∧ op < 0x50)
          ∨ 0x52 < op)
      ∧ (∀ w ∈ [0x50, 0x52], 0x50 ≤ bits (wd w) 0 8 ∧ bits (wd w) 0 8 ≤ 0x52)
      ∧ Started (jobState { Config.reference with hasCompare := false } (bufRegs 0x50 1 1) ⟨[]⟩) (jb 0x50 1 1)
      ∧ bits 0xFFFFFF00#32 0 8 = 0 := ⟨started _ _, by decide +kernel, by decide +kernel, started _ _, by decide +kernel⟩

theorem witness_NopCompletes :
    Started (sc 0xFFFFFF00 1 1) (jb 0xFFFFFF00 1 1) ∧ bits (jb 0xFFFFFF00 1 1).args.cmd 0 8 = 0
      ∧ (sc 0xFFFFFF00 1 1).env.doomed = [] :=
  ⟨started _ _, by decide, doomed_nil ..⟩

/-- TF set: SRGB from U8, POWER from F32. TF = 0: COPY with alpha passed. -/
theorem witness_RgbSideSinglePixel :
    ∀ w ∈ [0x00418001, 0x004A0802, 0x00503140],
      Started (sc w 0 0) (jb w 0 0) ∧ resolve (cmdAt w) = some (fieldsAt w) ∧ (fieldsAt w).imm = true
        ∧ Plain (fieldsAt w) ∧ AlphaLegal (fieldsAt w)
        ∧ ((w ≠ 0x00503140 → (fieldsAt w).tf ≠ .none) ∧ (w = 0x00503140 → (fieldsAt w).tf = .none))
        ∧ GammaOk Regs.reset (fieldsAt w).tf := by
  intro w h
  refine ⟨started _ _, ?_⟩
  unfold Plain AlphaLegal GammaOk
  revert w
  decide +kernel

/-- One word for each AMODE; the registers are those of `witness_positive_registers`. -/
theorem witness_ForwardSinglePixel :
    ∀ w ∈ [0x00418012, 0x00519112, 0x006A9412],
      Started (sc w 0 0) (jb w 0 0) ∧ resolve (cmdAt w) = some (fieldsAt w) ∧ (fieldsAt w).imm = true
        ∧ CsSide (fieldsAt w).dl (fieldsAt w).dt ∧ Plain (fieldsAt w) ∧ AlphaLegal (fieldsAt w)
        ∧ GammaOk Regs.reset (fieldsAt w).tf := by
  intro w h
  refine ⟨started _ _, ?_⟩
  unfold Plain AlphaLegal GammaOk CsSide
  revert w
  decide +kernel

theorem witness_InverseSinglePixel :
    ∀ w ∈ [0x00410813, 0x00513913, 0x006A5813],
      Started (sc w 0 0) (jb w 0 0) ∧ resolve (cmdAt w) = some (fieldsAt w) ∧ (fieldsAt w).imm = true
        ∧ CsSide (fieldsAt w).sl (fieldsAt w).st ∧ Plain (fieldsAt w) ∧ AlphaLegal (fieldsAt w)
        ∧ GammaOk Regs.reset (fieldsAt w).tf := by
  intro w h
  refine ⟨started _ _, ?_⟩
  unfold Plain AlphaLegal GammaOk CsSide
  revert w
  decide +kernel

theorem witness_FloatKernelSinglePixel :
    ∀ w ∈ [0x00408830, 0x00509930, 0x00609830],
      Started (sc w 0 0) (jb w 0 0) ∧ resolve (cmdAt w) = some (fieldsAt w) ∧ (fieldsAt w).imm = true
        ∧ CsSide (fieldsAt w).sl (fieldsAt w).st ∧ CsSide (fieldsAt w).dl (fieldsAt w).dt ∧ (fieldsAt w).tf = .none
        ∧ Plain (fieldsAt w) ∧ AlphaLegal (fieldsAt w) := by
  intro w h
  refine ⟨started _ _, ?_⟩
  unfold Plain AlphaLegal CsSide
  revert w
  decide +kernel

/-- POS 0 and 3, CONST and PASS, RGB and BGR. -/
theorem witness_ExpandStripSinglePixel :
    ∀ w ∈ [0x00601041, 0x0350BA41, 0x00400142, 0x0340AB42],
      Started (sc w 0 0) (jb w 0 0) ∧ resolve (cmdAt w) = some (fieldsAt w) ∧ (fieldsAt w).imm = true
        ∧ (fieldsAt w).dt = (fieldsAt w).st ∧ (fieldsAt w).tf = .none ∧ (fieldsAt w).sp = .standard
        ∧ (bits (wd w) 0 8 = 0x41 → ((fieldsAt w).sl = .rgb ∧ (fieldsAt w).dl = .rgba
            ∨ (fieldsAt w).sl = .bgr ∧ (fieldsAt w).dl = .bgra) ∧ (fieldsAt w).am ≠ .none)
        ∧ (bits (wd w) 0 8 = 0x42 → ((fieldsAt w).sl = .rgba ∧ (fieldsAt w).dl = .rgb
            ∨ (fieldsAt w).sl = .bgra ∧ (fieldsAt w).dl = .bgr) ∧ (fieldsAt w).am = .none) := by
  intro w h
  refine ⟨started _ _, ?_⟩
  revert w
  decide +kernel

theorem witness_PackSinglePixel :
    ∀ w ∈ [0x00400045, 0x00500148, 0x00600448],
      Started (sc w 0 0) (jb w 0 0) ∧ resolve (cmdAt w) = some (fieldsAt w) ∧ (fieldsAt w).imm = true
        ∧ (fieldsAt w).dl = .rgb ∧ (fieldsAt w).dt = .u8 ∧ (fieldsAt w).tf = .none ∧ Plain (fieldsAt w)
        ∧ (bits (wd w) 0 8 = 0x45 → (fieldsAt w).st = .u8 ∧ (fieldsAt w).am = .none)
        ∧ (bits (wd w) 0 8 = 0x48 → (fieldsAt w).st ≠ .f32
            ∧ ((fieldsAt w).am = .pass ∧ hasAlpha (fieldsAt w).sl = true ∨ (fieldsAt w).am = .const)) := by
  intro w h
  refine ⟨started _ _, ?_⟩
  unfold Plain
  revert w
  decide +kernel

theorem witness_Unpack565SinglePixel :
    ∀ w ∈ [0x00404046, 0x00603046, 0x00601047, 0x00408047],
      Started (sc w 0 0) (jb w 0 0) ∧ resolve (cmdAt w) = some (fieldsAt w) ∧ (fieldsAt w).imm = true
        ∧ (fieldsAt w).sl = .rgb ∧ (fieldsAt w).st = .u8 ∧ (fieldsAt w).tf = .none ∧ Plain (fieldsAt w)
        ∧ (fieldsAt w).am = (if hasAlpha (fieldsAt w).dl then .const else .none)
        ∧ (bits (wd w) 0 8 = 0x46 → (fieldsAt w).dt ≠ .f32) := by
  intro w h
  refine ⟨started _ _, ?_⟩
  unfold Plain
  revert w
  decide +kernel

theorem witness_Unpack1010102SinglePixel :
    ∀ w ∈ [0x00400049, 0x00507049, 0x0060904A],
      Started (sc w 0 0) (jb w 0 0) ∧ resolve (cmdAt w) = some (fieldsAt w) ∧ (fieldsAt w).imm = true
        ∧ (fieldsAt w).sl = .rgb ∧ (fieldsAt w).st = .u8 ∧ (fieldsAt w).tf = .none ∧ Plain (fieldsAt w)
        ∧ ((fieldsAt w).am = .none ↔ hasAlpha (fieldsAt w).dl = false)
        ∧ (bits (wd w) 0 8 = 0x49 → (fieldsAt w).dt ≠ .f32) := by
  intro w h
  refine ⟨started _ _, ?_⟩
  unfold Plain
  revert w
  decide +kernel

theorem witness_PlanarOnePixelJob :
    Scene .deinterleave deinterleaveOp 0x00004443 1 1 ∧ Scene .interleave interleaveOp 0x00003344 1 1
      ∧ (∀ w ∈ [0x00004443, 0x00003344], (fieldsAt w).imm = false ∧ (fieldsAt w).dl = (fieldsAt w).sl
        ∧ (fieldsAt w).dt = (fieldsAt w).st ∧ (fieldsAt w).tf = .none ∧ (fieldsAt w).pos = 0
        ∧ (fieldsAt w).sp = .standard ∧ (fieldsAt w).am = .none)
      ∧ addressErr deinterleaveOp (cx 0x00004443 1 1) = none ∧ addressErr interleaveOp (cx 0x00003344 1 1) = none := by
  refine ⟨scene rfl rfl rfl rfl, scene rfl rfl rfl rfl,
    by decide +kernel, by decide +kernel, by decide +kernel⟩

theorem witness_CompareOnePixelJob :
    Scene .distEuclid distEuclidOp 0x00008850 1 1 ∧ (sc 0x00008850 1 1).cfg.hasCompare = true
      ∧ (∀ w ∈ [0x00008850, 0x00008951, 0x08000852], (fieldsAt w).imm = false
        ∧ ((fieldsAt w).sl = .rgb ∨ (fieldsAt w).sl = .rgba) ∧ (fieldsAt w).st = .f32 ∧ (fieldsAt w).dl = .rgb
        ∧ (fieldsAt w).tf = .none ∧ (fieldsAt w).pos = 0 ∧ (fieldsAt w).am = .none
        ∧ (bits (wd w) 0 8 ≠ 0x52 → (fieldsAt w).dt = .f32 ∧ (fieldsAt w).sp = .standard)
        ∧ (bits (wd w) 0 8 = 0x52 → (fieldsAt w).dt = .u8))
      ∧ addressErr distEuclidOp (cx 0x00008850 1 1) = none ∧ addressErr distTaxicabOp (cx 0x00008951 1 1) = none
      ∧ addressErr cmpEqOp (cx 0x08000852 1 1) = none := by
  refine ⟨scene rfl rfl rfl rfl, rfl, by decide +kernel, by decide +kernel,
    by decide +kernel, by decide +kernel⟩

/-- The forward word fills the table; the layout word has a third argument. -/
theorem witness_OnePixelBufferJob :
    Scene .rgbToLab rgbToLabOp 0x00018012 1 1 ∧ Scene .expand expandOp 0x01101041 1 1
      ∧ (fieldsAt 0x00018012).imm = false ∧ (fieldsAt 0x01101041).imm = false
      ∧ (jb 0x00018012 1 1).args.width = 1#32 ∧ (jb 0x00018012 1 1).args.height = 1#32
      ∧ firstErr rgbToLabOp (cx 0x00018012 1 1) = none ∧ firstErr expandOp (cx 0x01101041 1 1) = none := by
  refine ⟨scene rfl rfl rfl rfl, scene rfl rfl rfl rfl,
    rfl, rfl, rfl, rfl, by decide +kernel, by decide +kernel⟩

theorem witness_BufferJobWritesEveryElement :
    Scene .copy copyOp 0x00103140 2 2 ∧ addressed (cx 0x00103140 2 2) = true ∧ firstErr copyOp (cx 0x00103140 2 2) = none
      ∧ (copyOp.dstElems (cx 0x00103140 2 2))[3]? = some (chanRef (pixD (cx 0x00103140 2 2)) 3)
      ∧ (copyOp.body (cx 0x00103140 2 2) (memElems copyOp (cx 0x00103140 2 2) (sc 0x00103140 2 2).mem 1 1))[3]?
        = some 0#32 ∧ (∀ b, ¬Raced (sc 0x00103140 2 2) b) := by
  refine ⟨scene rfl rfl rfl rfl, by decide +kernel, by decide +kernel, rfl, by decide +kernel, not_raced (doomed_nil ..)⟩

theorem witness_ZeroSizeJobCompletes :
    Scene .rgbToLab rgbToLabOp 0x00018012 0 1 ∧ (fieldsAt 0x00018012).imm = false
      ∧ (jb 0x00018012 0 1).args.width = 0#32 ∧ (jb 0x00018012 1 0).args.height = 0#32
      ∧ rgbToLabOp.legal (cx 0x00018012 0 1) = true
      ∧ (∀ p ∈ checkedParams rgbToLabOp (cx 0x00018012 0 1), isPosFinite (p.value (jb 0x00018012 0 1).args) = true)
      ∧ rgbToLabOp.alpha (cx 0x00018012 0 1) = true := by
  refine ⟨scene rfl rfl rfl rfl, rfl, rfl, rfl, by decide +kernel, by decide +kernel,
    by decide +kernel⟩

/-- A reserved code in each field; LINEARIZE with TF = 0; and a compare command without HAS_COMPARE. -/
theorem witness_IllegalFieldsAreRefused :
    Started (sc 0x00008C12 1 1) (jb 0x00008C12 1 1)
      ∧ (∀ w ∈ [0x00008C12, 0x0000C012, 0x000B8012, 0x000F8012, 0x00308012, 0x0C000852, 0x1C000852],
        (cmdAt w).wellFormed = false)
      ∧ Scene .linearize linearizeOp 0x00008001 1 1 ∧ ¬FieldsLegal 0x01 true (fieldsAt 0x00008001)
      ∧ jobOf (.cmpEq (cmdAt 0x00000852)) = some (cmpEqOp, cmdAt 0x00000852) ∧ ¬FieldsLegal 0x52 false (fieldsAt 0x00000852) := by
  refine ⟨started _ _, by decide +kernel, scene rfl rfl rfl rfl, fun h => (h.1 (by decide)).1 (by decide), rfl, fun h => ?_⟩
  obtain ⟨-, -, -, -, -, -, -, -, -, -, -, -, -, h⟩ := h
  exact absurd (h rfl).1 (by decide)

theorem witness_CheckedRegistersTable :
    jobOf (.rgbToLab (cmdAt 0x000A8012)) = some (rgbToLabOp, cmdAt 0x000A8012)
      ∧ checkedParams rgbToLabOp (cx 0x000A8012 1 1) = [.gamma, .xyzScale, .whiteX, .whiteY, .whiteZ] :=
  ⟨rfl, by decide +kernel⟩

/-- The first register checked, and the last. -/
theorem witness_BadRegisterIsParam :
    Scene .rgbToLab rgbToLabOp 0x000A8012 1 1 ∧ rgbToLabOp.legal (cx 0x000A8012 1 1) = true
      ∧ checkedParams rgbToLabOp (cx 0x000A8012 1 1) = [] ++ Param.gamma :: [.xyzScale, .whiteX, .whiteY, .whiteZ]
      ∧ isPosFinite (Param.gamma.value { bufRegs 0x000A8012 1 1 with gamma := 0x7F800000 }) = false
      ∧ checkedParams rgbToLabOp (cx 0x000A8012 1 1) = [.gamma, .xyzScale, .whiteX, .whiteY] ++ Param.whiteZ :: []
      ∧ (∀ q ∈ [Param.gamma, .xyzScale, .whiteX, .whiteY],
        isPosFinite (q.value { bufRegs 0x000A8012 1 1 with whiteZ := 0x80000000 }) = true)
      ∧ isPosFinite (Param.whiteZ.value { bufRegs 0x000A8012 1 1 with whiteZ := 0x80000000 }) = false := by
  refine ⟨scene rfl rfl rfl rfl, by decide +kernel, by decide +kernel, by decide +kernel,
    by decide +kernel, by decide +kernel, by decide +kernel⟩

/-- A "pol" column, a column of one entry, and a compare command. -/
theorem witness_BadAmodeIsAlpha :
    Scene .copy copyOp 0x00100040 1 1 ∧ copyOp.legal (cx 0x00100040 1 1) = true
      ∧ checkedParams copyOp (cx 0x00100040 1 1) = [] ∧ ¬AmodeLegal 0x40 (fieldsAt 0x00100040)
      ∧ Scene .expand expandOp 0x00001041 1 1 ∧ expandOp.legal (cx 0x00001041 1 1) = true
      ∧ ¬AmodeLegal 0x41 (fieldsAt 0x00001041)
      ∧ Scene .distEuclid distEuclidOp 0x00108850 1 1 ∧ distEuclidOp.legal (cx 0x00108850 1 1) = true
      ∧ ¬AmodeLegal 0x50 (fieldsAt 0x00108850) := by
  refine ⟨scene rfl rfl rfl rfl, by decide +kernel, rfl, fun h => ?_, scene rfl rfl rfl rfl, by decide +kernel, fun h => ?_,
    scene rfl rfl rfl rfl, by decide +kernel, fun h => ?_⟩
  · exact absurd ((h.1 (by decide)).2.1 rfl).1 (by decide)
  · exact absurd (h.2.1 rfl) (by decide)
  · exact absurd (h.2.2.1 (by decide)) (by decide)

/-- Registers of a COPY on U16 elements, S and D. -/
def copy16 : Regs := bufRegs 0x00004440 1 1

def ctx16 (r : Regs) : JobCtx := ⟨.reference, r, fieldsAt 0x00004440⟩

/-- What the address checks assume of the checks before them. -/
theorem witness_address_checks_reached (r : Regs) (h : r.cmd = 0x00004440#32) (hw : r.width = 1#32) (hh : r.height = 1#32) :
    jobOf (.copy (cmdAt 0x00004440)) = some (copyOp, cmdAt 0x00004440)
      ∧ Started (jobState .reference r ⟨[]⟩) ⟨r, .check, []⟩ ∧ r.cmd = 0x00004440#32
      ∧ resolve (cmdAt 0x00004440) = some (fieldsAt 0x00004440)
      ∧ ctxOf (jobState .reference r ⟨[]⟩) ⟨r, .check, []⟩ (fieldsAt 0x00004440) = ctx16 r
      ∧ copyOp.legal (ctx16 r) = true ∧ checkedParams copyOp (ctx16 r) = [] ∧ copyOp.alpha (ctx16 r) = true
      ∧ addressed (ctx16 r) = true := by
  refine ⟨rfl, started _ _, h, rfl, rfl, rfl, rfl, rfl, ?_⟩
  simp [addressed, ctx16, fieldsAt, hw, hh]
  decide +kernel

/-- Base and stride, on the first argument and on the last. -/
theorem witness_MisalignedArgumentIsAlign :
    (∃ b d, arguments copyOp (ctx16 { copy16 with srcLo := 0x1001 }) = [] ++ b :: [d] ∧ b.base % b.unit ≠ 0)
      ∧ (∃ b d, arguments copyOp (ctx16 { copy16 with dstStride := 63 }) = [d] ++ b :: []
        ∧ (∀ a ∈ [d], a.base % a.unit = 0 ∧ a.stride % a.unit = 0) ∧ b.base % b.unit = 0 ∧ b.stride % b.unit ≠ 0) :=
  ⟨⟨_, _, rfl, by decide +kernel⟩, ⟨_, _, rfl, by decide +kernel, by decide +kernel, by decide +kernel⟩⟩

/-- A stride one element short. -/
theorem witness_ShortStrideIsStride :
    ∃ b d, arguments copyOp (ctx16 { copy16 with dstStride := 4 }) = [d] ++ b :: []
      ∧ alignErr (arguments copyOp (ctx16 { copy16 with dstStride := 4 })) = none
      ∧ (∀ a ∈ [d], copy16.width.toNat * a.bpp ≤ a.stride) ∧ b.stride < copy16.width.toNat * b.bpp :=
  ⟨_, _, rfl, by decide +kernel, by decide +kernel, by decide +kernel⟩

/-- A last byte one element past the address space. -/
theorem witness_SpanPastSpaceIsRange :
    ∃ b d, arguments copyOp (ctx16 { copy16 with dstLo := 0xFFFFFFFC, dstHi := 0xFFFFFFFF }) = [d] ++ b :: []
      ∧ alignErr (arguments copyOp (ctx16 { copy16 with dstLo := 0xFFFFFFFC, dstHi := 0xFFFFFFFF })) = none
      ∧ strideErr 1 (arguments copyOp (ctx16 { copy16 with dstLo := 0xFFFFFFFC, dstHi := 0xFFFFFFFF })) = none
      ∧ (∀ a ∈ [d], a.base + (1 - 1) * a.stride + 1 * a.bpp - 1 ≤ spaceSize .w64 - 1)
      ∧ spaceSize .w64 - 1 < b.base + (1 - 1) * b.stride + 1 * b.bpp - 1 :=
  ⟨_, _, rfl, by decide +kernel, by decide +kernel, by decide +kernel, by decide +kernel⟩

/-- D begins at the last element of S. -/
theorem witness_OverlapIsRefused :
    ∃ d y, copyOp.dests (ctx16 { copy16 with dstLo := 0x1004 }) = [] ++ d :: []
      ∧ copyOp.sources (ctx16 { copy16 with dstLo := 0x1004 }) ++ [] = [] ++ y :: []
      ∧ addressErr copyOp (ctx16 { copy16 with dstLo := 0x1004 }) = some (infoErr .overlap 0x102)
      ∧ overlapErr 1 1 (copyOp.sources (ctx16 { copy16 with dstLo := 0x1004 })) [] = none
      ∧ (∃ a, InFootprint 1 1 d a ∧ InFootprint 1 1 y a) ∧ d.base ≠ y.base := by
  refine ⟨_, _, rfl, rfl, by decide +kernel, rfl, ⟨0x1005, ⟨0, by decide +kernel⟩, ⟨0, by decide +kernel⟩⟩, by decide +kernel⟩

def faultAt (a : Nat) (r w : Bool) : Config := { Config.reference with busFaults := [⟨a, a, 2, r, w⟩] }

/-- A COPY in its traversal, its last pixel at stage `g`. -/
def traversing (cfg : Config) (g : Stage) : State :=
  { jobState cfg copy16 ⟨[]⟩ with job := some ⟨copy16, .traverse, [⟨0, 0, g⟩]⟩ }

/-- Clause (1): a fault of the second read, and of the last write. -/
theorem witness_BusFaultEndsJob_next :
    (∃ px others rest, pick 0 [(⟨0, 0, .reading [(1, ⟨0x1002, 2⟩)] [(0, 7)]⟩ : Pixel)] = some (px, others)
        ∧ px.stage = .reading [(1, ⟨0x1002, 2⟩)] [(0, 7)] ∧ pick 0 [(1, (⟨0x1002, 2⟩ : Access))] = some ((1, ⟨0x1002, 2⟩), rest)
        ∧ busFault (faultAt 0x1002 true false) ⟨0x1002, 2⟩ false = true)
      ∧ (∃ px others rest, pick 0 [(⟨0, 0, .writing [⟨0x2004, 2, 7⟩]⟩ : Pixel)] = some (px, others)
        ∧ px.stage = .writing [⟨0x2004, 2, 7⟩] ∧ pick 0 [(⟨0x2004, 2, 7⟩ : Store)] = some (⟨0x2004, 2, 7⟩, rest)
        ∧ busFault (faultAt 0x2004 false true) ⟨0x2004, 2⟩ true = true)
      ∧ (traversing (faultAt 0x1002 true false) (.reading [(1, ⟨0x1002, 2⟩)] [(0, 7)])).env.inputs = []
      ∧ (traversing (faultAt 0x1002 true false) (.reading [(1, ⟨0x1002, 2⟩)] [(0, 7)])).env.tape = [] :=
  ⟨⟨_, _, _, rfl, rfl, rfl, by decide +kernel⟩, ⟨_, _, _, rfl, rfl, rfl, by decide +kernel⟩, rfl, rfl⟩

/-- Clause (3): a fault of the first read, of the last read, of the first write, and of the last write. -/
theorem witness_BusFaultEndsJob_onePixel :
    Started (jobState (faultAt 0x1000 true false) copy16 ⟨[]⟩) ⟨copy16, .check, []⟩
      ∧ addressed (ctx16 copy16) = true ∧ firstErr copyOp (ctx16 copy16) = none
      ∧ (∀ q ∈ [(0x1000, 0), (0x1004, 2)], ∃ e, (copyOp.srcElems (ctx16 copy16))[q.2]? = some e
        ∧ (∀ d ∈ (copyOp.srcElems (ctx16 copy16)).take q.2, busFault (faultAt q.1 true false) (d.access 0 0) false = false)
        ∧ busFault (faultAt q.1 true false) (e.access 0 0) false = true)
      ∧ (∀ q ∈ [(0x2000, 0), (0x2004, 2)], ∃ e, (copyOp.dstElems (ctx16 copy16))[q.2]? = some e
        ∧ (∀ d ∈ copyOp.srcElems (ctx16 copy16), busFault (faultAt q.1 false true) (d.access 0 0) false = false)
        ∧ (∀ d ∈ (copyOp.dstElems (ctx16 copy16)).take q.2, busFault (faultAt q.1 false true) (d.access 0 0) true = false)
        ∧ busFault (faultAt q.1 false true) (e.access 0 0) true = true) := by
  refine ⟨started _ _, by decide +kernel, by decide +kernel, ?_, ?_⟩ <;> intro q h <;> fin_cases h
  · exact ⟨_, rfl, by decide +kernel, by decide +kernel⟩
  · exact ⟨_, rfl, by decide +kernel, by decide +kernel⟩
  · exact ⟨_, rfl, by decide +kernel, by decide +kernel, by decide +kernel⟩
  · exact ⟨_, rfl, by decide +kernel, by decide +kernel, by decide +kernel⟩

/-- A fault of the last write of a pixel leaves the elements before it stored. -/
theorem test_fault_of_last_write :
    let t := nextOf (jobState (faultAt 0x2004 false true) copy16 ⟨[(0x1000, 5), (0x1002, 6), (0x1004, 7)]⟩)
    t.err = some .bus ∧ t.errInfoLo = 0x2004#32 ∧ [0x2000, 0x2002, 0x2004].map t.mem.byte = [5, 6, 0] := by decide +kernel

def windowed : Config := { Config.reference with windowBase := some 0x9000 }

/-- The first and last byte of the window, and the bytes beside it. -/
theorem witness_WindowAccessFaults :
    windowed.windowBase = some 0x9000 ∧ windowed.busFaults = [] ∧ (∀ c ∈ [(⟨0x8FFF, 2⟩ : Access), ⟨0x9FFF, 1⟩], 0 < c.size ∧ c.addr < 0x9000 + 4096 ∧ 0x9000 < c.addr + c.size)
      ∧ ∀ c ∈ [(⟨0x8FFF, 1⟩ : Access), ⟨0xA000, 4⟩], 0 < c.size ∧ c.addr + c.size ≤ spaceSize .w64
        ∧ (0x9000 + 4096 ≤ c.addr ∨ c.addr + c.size ≤ 0x9000) := by decide

def after (i : Instr) (s : State) : State :=
  match exec i s with
  | .next t => t
  | _ => s

theorem exec_after (i : Instr) (s : State) : exec i s = .next (after i s) := by
  obtain ⟨t, h⟩ := exec_next i s
  simp [after, h]

/-- For CommandsKeepRegisters, a next state: of a NOP, of an IMM job and of a buffer
job. -/
theorem witness_exec_answers :
    (∃ t, exec .nop (sc 0 1 1) = .next t ∧ t.done = true)
      ∧ (∃ t, exec (.copy (cmdAt 0x00400040)) (sc 0x00400040 1 1) = .next t ∧ t.pixOut = Quad.zero)
      ∧ ∃ t, exec (.rgbToLab (cmdAt 0x00018012)) (sc 0x00018012 1 1) = .next t ∧ t.lut.valid = true :=
  ⟨⟨_, exec_after _ _, by decide +kernel⟩, ⟨_, exec_after _ _, by decide +kernel⟩, ⟨_, exec_after _ _, by decide +kernel⟩⟩

/-- Clause (2): a job of two rows that ends in BUS at a write of its second row. -/
theorem witness_BusFaultEndsJob_size :
    let r := { bufRegs 0x00004440 1 2 with cmd := 0x00004440 }
    ∃ t, Started (jobState (faultAt 0x2042 false true) r ⟨[]⟩) ⟨r, .check, []⟩
      ∧ (jobState (faultAt 0x2042 false true) r ⟨[]⟩).mem.wf = true ∧ firstErr copyOp (ctx16 r) = none
      ∧ addressed (ctx16 r) = true
      ∧ exec (.copy (cmdAt 0x00004440)) (jobState (faultAt 0x2042 false true) r ⟨[]⟩) = .next t ∧ t.err = some .bus
      ∧ t.errInfoLo = 0x2042#32 :=
  ⟨_, started _ _, rfl, by decide +kernel, by decide +kernel, exec_after _ _, by decide +kernel, by decide +kernel⟩

/-- Bytes beside the destination, and a refused job. -/
theorem witness_CommandsWriteOnlyTheirDestination :
    Scene .copy copyOp 0x00000040 1 1 ∧ OutsideDst copyOp (cx 0x00000040 1 1) 0x1FFF
      ∧ OutsideDst copyOp (cx 0x00000040 1 1) 0x2003 ∧ firstErr copyOp (cx 0x00100040 1 1) ≠ none
      ∧ addressed (cx 0x00400040 1 1) = false := by
  refine ⟨scene rfl rfl rfl rfl, ?_, ?_, by decide +kernel, by decide +kernel⟩ <;>
  · intro c y e hc hy he
    obtain rfl : c = 0 := by have : c < 1 := hc; omega
    obtain rfl : y = 0 := by have : y < 1 := hy; omega
    revert e
    decide +kernel

/-- The table is filled, is fresh already, is not wanted. -/
theorem witness_TableIsFilledAsNeeded :
    Scene .rgbToLab rgbToLabOp 0x00018012 1 1 ∧ addressed (cx 0x00018012 1 1) = true
      ∧ firstErr rgbToLabOp (cx 0x00018012 1 1) = none ∧ needsFill rgbToLabOp (cx 0x00018012 1 1) Lut.reset = true
      ∧ needsFill rgbToLabOp (cx 0x00018012 1 1) { Lut.reset with valid := true, tf := .srgb } = false
      ∧ needsFill rgbToLabOp (cx 0x00018412 1 1) Lut.reset = false := by
  refine ⟨scene rfl rfl rfl rfl, by decide +kernel, by decide +kernel, by decide +kernel,
    by decide +kernel, by decide +kernel⟩

theorem witness_CheckErrorsArePrecise :
    ∃ t, Started (sc 0x00100040 1 1) (jb 0x00100040 1 1) ∧ (sc 0x00100040 1 1).err = none
      ∧ exec (.copy (cmdAt 0x00100040)) (sc 0x00100040 1 1) = .next t ∧ t.err = some .alpha :=
  ⟨_, started _ _, rfl, exec_after _ _, by decide +kernel⟩

theorem witness_EveryJobEnds :
    (sc 0x40 2 2).job ≠ none ∧ (sc 0x40 2 2).env.inputs = [] ∧ (sc 0x40 2 2).done = false ∧ (sc 0x40 2 2).err = none :=
  ⟨nofun, rfl, rfl, rfl⟩

theorem inv_running : Inv (sc 0x40 2 2) := by
  refine ⟨by decide +kernel, fun _ => ⟨rfl, rfl⟩, fun _ => rfl, fun _ => ⟨rfl, rfl⟩, fun h => ?_, fun _ => ⟨rfl, rfl, rfl⟩⟩
  exact absurd h (by decide +kernel)

/-- The invariant of a running job before a host store, and its step. -/
theorem witness_StepKeepsInvariant :
    let s : State := { sc 0x40 2 2 with env := { Env.reset with inputs := [⟨0, .memStore 5 7⟩] } }
    Inv s ∧ step s = .next (State.hostStore { s with env := { s.env with inputs := [] } } 5 7) :=
  ⟨⟨inv_running.1, inv_running.2, inv_running.3, inv_running.4, inv_running.5, inv_running.6⟩, rfl⟩

/-- Host accesses at the ends of the address space. -/
theorem witness_NoStepStops :
    HostInSpace { State.reset with env := { Env.reset with
      inputs := [⟨0, .memStore (2 ^ 64 - 1) 7⟩, ⟨1, .memLoad 0⟩, ⟨2, .powerOnReset⟩] } } := by
  intro i hi
  fin_cases hi <;> trivial

/-- The plain offsets, the bank's first and last, and both widths of the `*_HI` registers. -/
theorem witness_RegistersReadBack :
    isPlainRegister .w32 0x010 ∧ isPlainRegister .w32 0x08C ∧ isPlainRegister .w32 0x100 ∧ isPlainRegister .w32 0x3E0
      ∧ isPlainRegister .w64 0x024 ∧ 0x024 ∈ hiOffsets ∧ 0x044 ∈ hiOffsets := by
  refine ⟨.inl (by decide), .inl (by decide), .inr (.inl ⟨0, 0, by decide⟩), .inr (.inl ⟨11, 8, by decide⟩),
    .inr (.inr ⟨rfl, by decide⟩), by decide, by decide⟩

theorem witness_ReadOnlyRegistersTakeNoWrite :
    (0x000 : Nat) ∈ [0x000, 0x004, 0x070, 0x074, 0x090, 0x094, 0x098, 0x09C]
      ∧ 0x09C ∈ [0x000, 0x004, 0x070, 0x074, 0x090, 0x094, 0x098, 0x09C] := by decide

theorem witness_ReservedOffsetsReadZero :
    ∀ off ∈ [0x01C, 0x02C, 0x07C, 0x0FC, 0x124, 0x3E4, 0x400, 0xFFC], off % 4 = 0 ∧ off < 4096 ∧ ¬isBankOffset off
      ∧ off ∉ plainOffsets ++ hiOffsets ++ [0x000, 0x004, 0x008, 0x00C, 0x070, 0x074, 0x090, 0x094, 0x098, 0x09C] := by
  intro off h
  refine ⟨?_, ?_, ?_, ?_⟩
  · revert off; decide
  · revert off; decide
  · rintro ⟨k, i, hk, hi, e⟩
    simp only [List.mem_cons, List.not_mem_nil, or_false] at h
    omega
  · revert off; decide

theorem witness_NarrowAccessIsIgnored : ((2 : Nat) ≠ 4 ∨ 0x010 % 4 ≠ 0) ∧ ((4 : Nat) ≠ 4 ∨ 0x011 % 4 ≠ 0) := by decide

/-- CTRL words for each clause: SRESET; no SRESET; START alone, with no error and no job; neither. -/
theorem witness_CtrlWriteOrder :
    (0x307#32).getLsbD 1 = true ∧ (0x305#32).getLsbD 1 = false ∧ (0x305#32).getLsbD 0 = true
      ∧ State.reset.job = none ∧ State.reset.err = none ∧ (0x304#32).getLsbD 0 = false := by decide

theorem witness_StartIsRefusedWhileBusyOrErr :
    (sc 0x40 1 1).job ≠ none ∧ (State.reset.errorEntry .param 0 0).err ≠ none ∧ State.reset.job = none
      ∧ State.reset.err = none ∧ (0x301#32).getLsbD 0 = true ∧ (0x301#32).getLsbD 1 = false
      ∧ (0x302#32).getLsbD 0 = false ∧ (0x300#32).getLsbD 0 = false :=
  ⟨nofun, nofun, rfl, rfl, rfl, rfl, rfl, rfl⟩

theorem witness_AcknowledgeClearsBits : Inv (sc 0x40 2 2) ∧ (sc 0x40 2 2).job ≠ none :=
  ⟨inv_running, nofun⟩

theorem witness_WritesDuringJobDoNotAffectIt :
    (sc 0x40 1 1).job ≠ none ∧ 0x010 % 4 = 0 ∧ 0x010 < 4096 ∧ 0x010 ≠ 0x008 ∧ 0x010 ≠ 0x00C
      ∧ isPlainRegister .w64 0x010 ∧ (∃ u : State, u.regs = ((sc 0x40 1 1).regWrite 0x010 4 7).regs ∧ u.job = none
        ∧ u.err = none) :=
  ⟨nofun, rfl, by decide, by decide, by decide, .inl (by decide),
    ⟨State.errorEntry { (sc 0x40 1 1).regWrite 0x010 4 7 with err := none } .bus 0 0 |>.acknowledge 4, rfl, rfl, rfl⟩⟩

theorem witness_ResetState : (0x302#32).getLsbD 1 = true ∧ (2#32).getLsbD 1 = true := ⟨rfl, rfl⟩

theorem witness_ElementWriteReadsBack :
    (⟨[(5, 1#8)]⟩ : Memory).wf = true ∧ (⟨5, 4, 0x00FF0000#32⟩ : Store).size ≤ 4 := by decide

theorem witness_RoundingIsNearest : 0 < 3 ∧ roundMag (2 ^ 149) 3 < 0x7F800000 ∧ roundMag 0 1 < 0x7F800000 := by
  decide +kernel

theorem witness_DistancesAreSymmetric : isNaN fOne = false ∧ isNaN posInf = false := by decide

/-- NaN, below 0, above MAX, and the ends of the range between. -/
theorem witness_QuantizationRule :
    isNaN (fmul 0x7FC00000 (fOfNat 255)) = true ∧ flt (fmul 0xBF800000 (fOfNat 255)) posZero = true
      ∧ flt (fOfNat 255) (fmul 0x3F800001 (fOfNat 255)) = true
      ∧ ∀ x ∈ [posZero, negZero, fOne], isNaN (fmul x (fOfNat 255)) = false ∧ flt (fmul x (fOfNat 255)) posZero = false
        ∧ flt (fOfNat 255) (fmul x (fOfNat 255)) = false := by
  simp only [List.forall_mem_cons, List.not_mem_nil, false_imp_iff, implies_true, and_true]
  decide +kernel

/-- An L of about 1/13, and the v that takes the prime to 0 at the reset white point. -/
theorem witness_DegenerateInputsAreGuarded :
    isZero posZero = true ∧ isZero negZero = true ∧ isFinite posZero = true ∧ isFinite 0xFF7FFFFF = true
      ∧ isZero (fadd (fadd posZero (fmul k15 posZero)) (fmul k3 negZero)) = true
      ∧ isZero (fdiv negZero Regs.reset.whiteY) = true ∧ isZero (fmul kLuvKappa (fdiv negZero Regs.reset.whiteY)) = true
      ∧ isZero (fRatio false 1 13) = false
      ∧ isZero (fadd (fmul (fneg (whiteV Regs.reset)) (fdiv fOne (fmul k13 (fRatio false 1 13)))) (whiteV Regs.reset)) = true
      ∧ fle (fdiv fTwo (fsub fOne fTwo)) posZero = true
      ∧ isZero (maxTri ⟨posZero, 0xBF800000, negZero⟩) = true
      ∧ isZero (fsub fOne (fabs (fsub (fmul fTwo (fmul (fadd (maxTri ⟨fOne, fOne, fOne⟩) (minTri ⟨fOne, fOne, fOne⟩)) fHalf))
          fOne))) = true
      ∧ isFinite posInf = false ∧ isFinite canonNaN = false
      ∧ fle (matRow 1 2 3 ⟨posZero, negZero, 0x80000001⟩) posZero = true
      ∧ isZero (fsub (fmul kSq33 posZero) (fmul kSq63 posZero)) = true := by
  decide +kernel

/-- What a START of a COPY of word `w` on two rows of two pixels assumes: a legal word, one with a reserved bit and a
reserved TF, and one with a reserved source type. -/
theorem start_scene :
    ∀ w ∈ [0x00000040, 0x008B0040, 0x00000C40],
      let s : State := { State.reset with regs := bufRegs (wd w) 2 2 }
      s.job = none ∧ s.err = none
        ∧ decode (clearReserved s.regs.cmd) = .ok (.copy (cmdAt w))
        ∧ opcodePresent s.cfg (.copy (cmdAt w)) = true ∧ (cmdAt w).imm = false ∧ s.regs.width ≠ 0#32
        ∧ s.regs.height ≠ 0#32 := by
  intro w h
  simp only [List.mem_cons, List.not_mem_nil, or_false] at h
  rcases h with rfl | rfl | rfl
  · exact ⟨rfl, rfl, congrArg decode (by decide +kernel : clearReserved (wd 0x00000040) = wd 0x00000040), rfl, rfl,
      by decide, by decide⟩
  · exact ⟨rfl, rfl, congrArg decode (by decide +kernel : clearReserved (wd 0x008B0040) = wd 0x000B0040), rfl, rfl,
      by decide, by decide⟩
  · exact ⟨rfl, rfl, congrArg decode (by decide +kernel : clearReserved (wd 0x00000C40) = wd 0x00000C40), rfl, rfl,
      by decide, by decide⟩

/-- S and D of three U8 channels. -/
theorem pixD_rgb8 {w : Nat} {f : Fields} (hl : f.dl = .rgb) (ht : f.dt = .u8) :
    pixD ⟨.reference, bufRegs (wd w) 2 2, f⟩ = ⟨2, 0x2000, 64, 3, 1⟩ := by
  simp [pixD, hl, ht, bufD, bufRegs, Regs.reset, pairAddr, nch, elemSize, Config.reference]

theorem pixS_rgb8 {w : Nat} {f : Fields} (hl : f.sl = .rgb) (ht : f.st = .u8) :
    pixS ⟨.reference, bufRegs (wd w) 2 2, f⟩ = ⟨1, 0x1000, 64, 3, 1⟩ := by
  simp [pixS, hl, ht, bufS, bufRegs, Regs.reset, pairAddr, nch, elemSize, Config.reference]

/-- The destination of each of these words is fixed by its layouts and types. -/
theorem start_buffer (w : Nat) (h : w ∈ [0x00000040, 0x008B0040, 0x00000C40]) (f : Fields) (hf : Reads (cmdAt w) f) :
    (⟨2, 0x2000, 64, 3, 1⟩ : BufArg) ∈ copyOp.dests ⟨.reference, bufRegs (wd w) 2 2, f⟩ := by
  have hd : f.dl = .rgb ∧ f.dt = .u8 := by
    simp only [List.mem_cons, List.not_mem_nil, or_false] at h
    rcases h with rfl | rfl | rfl <;> exact ⟨hf.dstLayout, hf.dstType _ rfl⟩
  show _ ∈ [pixD _]
  rw [List.mem_singleton, pixD_rgb8 hd.1 hd.2]

/-- A byte of the last destination element of a two-row job, and of its footprint; a step, a load and a STATUS read. -/
theorem witness_AcceptedJobOwnsDestination :
    addressed (cx 0x00000040 2 2) = true ∧ opcodePresent .reference (.copy (cmdAt 0x00000040)) = true
      ∧ copyOp.legal (cx 0x00000040 2 2) = true ∧ copyOp.alpha (cx 0x00000040 2 2) = true
      ∧ (∃ e ∈ copyOp.dstElems (cx 0x00000040 2 2), (e.access 1 1).covers 0x2045 = true)
      ∧ InFootprint 2 2 ⟨2, 0x2000, 64, 3, 1⟩ 0x2045 ∧ resolve (cmdAt 0x00000040) = some (fieldsAt 0x00000040)
      ∧ (∀ w ∈ [0x00, 0x00400040], bits (wd w) 0 8 = 0 ∨ bits (wd w) 22 1 = 1)
      ∧ (sc 0x40 1 1).env.owning = true
      ∧ (∃ d ∈ (sc 0x40 1 1).env.dests, d.covers 0x2002 = true)
      ∧ (let s : State := { (sc 0x40 1 1).complete with env := { (sc 0x40 1 1).env with inputs := [⟨0, .regRead 0x00C 4⟩] } }
        s.job = none ∧ s.env.owning = true ∧ ∃ u, s.hostTurn = some (.regRead 0x00C 4, u)) := by
  refine ⟨by decide +kernel, rfl, by decide +kernel, by decide +kernel,
    ⟨_, List.mem_cons_of_mem _ (List.mem_cons_of_mem _ (List.mem_cons_self ..)), by decide +kernel⟩,
    ⟨1, by decide⟩, rfl, by decide +kernel, rfl, ⟨_, List.mem_cons_self .., by decide +kernel⟩, rfl, rfl, _, rfl⟩

/-- What element 2 of COPY reads under every reading of a reserved TF code. -/
theorem start_dependence (w : Nat) (f : Fields) (hf : Reads (cmdAt 0x008B0040) f) :
    (copyOp.dstElems ⟨.reference, bufRegs (wd w) 2 2, f⟩)[2]? = some (chanRef ⟨2, 0x2000, 64, 3, 1⟩ 2)
      ∧ (copyOp.srcElems ⟨.reference, bufRegs (wd w) 2 2, f⟩)[2]? = some (chanRef ⟨1, 0x1000, 64, 3, 1⟩ 2)
      ∧ copyOp.dep ⟨.reference, bufRegs (wd w) 2 2, f⟩ 2 2 0 = true := by
  refine ⟨?_, ?_, rfl⟩
  · show (polDsts _)[2]? = _
    have hl : f.dl = .rgb := hf.dstLayout
    simp only [polDsts, List.cons_append, List.getElem?_cons_succ, List.getElem?_cons_zero, hl, bOff,
      pixD_rgb8 hl (hf.dstType _ rfl)]
  · show (polSrcs _)[2]? = _
    have hl : f.sl = .rgb := hf.srcLayout
    simp only [polSrcs, namedSrcs, List.cons_append, List.getElem?_cons_succ, List.getElem?_cons_zero, hl, bOff,
      pixS_rgb8 hl (hf.srcType _ rfl)]

/-- A byte that element 2 of the last pixel depends on; an element of an ended job, and of a later one that reads it; a store
during a job, after it, and with nothing owned; a raced byte, and one that is not. -/
theorem witness_HostStoresRaceWithOwnedBytes :
    (∃ d, (copyOp.srcElems (cx 0x00000040 2 2))[2]? = some d ∧ 0 < d.buf.unit ∧ copyOp.dep (cx 0x00000040 2 2) 2 2 0 = true)
      ∧ ((twoJobs 0x2000 0x3000).mem.wf = true ∧ (twoJobs 0x2000 0x3000).env.owning = true
        ∧ (twoJobs 0x2000 0x3000).job ≠ none ∧ 0x1001 ∈ storeCost .reference 0x1001 [⟨⟨0x1001, 1⟩, [], [0x1001]⟩] []
        ∧ (twoJobs 0x2000 0x3000).pastCost 0x1001 = [0x2001] ∧ (twoJobs 0x2000 0x3000).lastCost 0x1001 = [0x3001]
        ∧ (twoJobs 0x2000 0x3000).pastCost 0x2002 = [0x2002])
      ∧ (let s := (sc 0x40 1 1).complete
        s.job = none ∧ s.env.owning = true ∧ s.lastCost 0x1001 = [0x2001] ∧ s.lastCost 0x2002 = [0x2002])
      ∧ (Raced ((sc 0x40 1 1).hostStore 0x2000 7) 0x2000 ∧ ¬Raced ((sc 0x40 1 1).hostStore 0x2000 7) 0x2001)
      ∧ State.reset.env.owning = false := by
  refine ⟨⟨_, rfl, by decide +kernel, by decide +kernel⟩, ⟨by decide +kernel, by decide +kernel, by decide +kernel,
    by decide +kernel, by decide +kernel, by decide +kernel, by decide +kernel⟩, by decide +kernel, ?_, rfl⟩
  unfold Raced
  decide +kernel

def incoherent : Config := { Config.reference with ioCoherent := false }

/-- Coherent and not; a store while a job owns footprints; a range that meets the line of a byte; a START over a dirty byte;
a stale byte; its invalidation. -/
theorem witness_CoherenceStepsOmitted :
    Config.reference.ioCoherent = true ∧ incoherent.ioCoherent = false ∧ 0 < incoherent.cacheLine
      ∧ (jobState incoherent (bufRegs 0x00000040 2 2) ⟨[]⟩).env.owning = true
      ∧ (∃ d, 0x1FFF ≤ d ∧ d < 0x1FFF + 2 ∧ d / incoherent.cacheLine = 0x2010 / incoherent.cacheLine)
      ∧ (let e : Env := { Env.reset with dirty := [0x1000] }
        (∀ a ∈ e.dirty, a = 0x1000) ∧ addressed ⟨incoherent, bufRegs 0x00000040 2 2, fieldsAt 0x00000040⟩ = true
          ∧ opcodePresent incoherent (.copy (cmdAt 0x00000040)) = true)
      ∧ 0x2045 ∈ (jobState incoherent (bufRegs 0x00000040 2 2) ⟨[]⟩).env.stale
      ∧ (let e : Env := { Env.reset with stale := [0x2000], inputs := [⟨0, .cacheInvalidate 0x2000 1⟩] }
        let s : State := { State.reset with cfg := incoherent, env := e }
        step s = .next (State.cacheInvalidate { s with env := { s.env with inputs := [] } } 0x2000 1) ∧ 0x2000 ∈ s.env.stale
          ∧ s.env.owned = [])
      ∧ (let s := (jobState incoherent (bufRegs 0x00000040 1 1) ⟨[]⟩).complete
        s.job = none ∧ s.err = none
          ∧ startCost incoherent [0x1010] s.newPlan (jobDests s.cfg s.regs) = [0x2000, 0x2001, 0x2002]
          ∧ startCost incoherent [0x2010] s.newPlan (jobDests s.cfg s.regs) = [0x2000, 0x2001, 0x2002]) := by
  refine ⟨rfl, rfl, by decide, rfl, ⟨0x2000, by decide⟩, ⟨by decide, by decide +kernel, rfl⟩, by decide +kernel, ⟨rfl, by decide, rfl⟩, by decide +kernel⟩

/-- Two readings that differ in the second channel only. -/
theorem witness_DependenciesAreSound :
    copyOp.legal (cx 0x00000040 1 1) = true ∧ copyOp.alpha (cx 0x00000040 1 1) = true
      ∧ ∀ slot d, (copyOp.srcElems (cx 0x00000040 1 1))[slot]? = some d →
        lowBytes d.buf.unit (if slot = 1 then 5#32 else 7#32) = (if slot = 1 then 5#32 else 7#32)
          ∧ lowBytes d.buf.unit (7#32) = 7#32
          ∧ ∀ b, b < d.buf.unit → copyOp.dep (cx 0x00000040 1 1) 0 slot b = true →
            bits (if slot = 1 then 5#32 else 7#32) (8 * b) 8 = bits (7#32) (8 * b) 8 := by
  refine ⟨by decide +kernel, by decide +kernel, fun slot d h => ?_⟩
  have hu : d.buf.unit = 1 := by
    match slot, h with
    | 0, h => cases h; rfl
    | 1, h => cases h; rfl
    | 2, h => cases h; rfl
  rw [hu]
  refine ⟨by split <;> rfl, rfl, fun b _ hd => ?_⟩
  obtain rfl : 0 = slot := of_decide_eq_true hd
  rfl

end Sys2Proof.Tests
end

section
/-! PROOFS. The invariant of every state: each shared operation keeps it, so each engine step, each run and each host
action does, and so does the machine's step (O37). -/

namespace Sys2Proof.Machine

/-! ### The updates the invariant does not see -/

/-- The invariant speaks of the surroundings not at all, and of memory only by its form. -/
theorem Inv.withMemEnv {s : State} (h : Inv s) {m : Memory} (hm : m.wf = true) (e : Env) :
    Inv { s with mem := m, env := e } :=
  ⟨hm, h.busyClear, h.oneEnd, h.errInfo, h.lutExact, h.hiZero⟩

theorem Inv.withEnv {s : State} (h : Inv s) (e : Env) : Inv { s with env := e } := h.withMemEnv h.memWf e

/-- A running job may go on with another record: BUSY stays 1. -/
theorem Inv.withJob {s : State} (h : Inv s) (hj : s.job ≠ none) (j : Job) : Inv { s with job := some j } :=
  ⟨h.memWf, fun _ => h.busyClear hj, h.oneEnd, h.errInfo, h.lutExact, h.hiZero⟩

theorem Inv.drawBytes {s : State} (h : Inv s) (l : List Nat) : Inv (s.drawBytes l) := by
  have hwf := State.drawBytes_wf l h.memWf
  obtain ⟨m, heq, -⟩ := State.drawBytes_spec l s
  rw [heq] at hwf ⊢
  exact h.withMemEnv hwf _

theorem Inv.settled {s : State} (h : Inv s) : Inv s.settled := h.drawBytes _

/-! ### The endings of a job (R520, R522) -/

/-- An error entry sets ERR, so DONE must be 0 before it. -/
theorem Inv.errorEntry {s : State} (h : Inv s) (hd : s.done = false) (code : ErrCode) (lo hi : Word) :
    Inv (s.errorEntry code lo hi) where
  memWf := h.memWf
  busyClear hj := absurd rfl hj
  oneEnd hd' := by rw [State.errorEntry_done, hd] at hd'; cases hd'
  errInfo he := by cases he
  lutExact := h.lutExact
  hiZero := h.hiZero

/-- Completion sets DONE, so ERR must be 0 before it. -/
theorem Inv.complete {s : State} (h : Inv s) (he : s.err = none) : Inv s.complete where
  memWf := h.memWf
  busyClear hj := absurd rfl hj
  oneEnd _ := he
  errInfo := h.errInfo
  lutExact := h.lutExact
  hiZero := h.hiZero

theorem Inv.withPixOut {s : State} (h : Inv s) (q : Quad) : Inv { s with pixOut := q } :=
  ⟨h.memWf, h.busyClear, h.oneEnd, h.errInfo, h.lutExact, h.hiZero⟩

/-! ### Engine steps -/

/-- While BUSY = 1, an error entry after the races are settled keeps the invariant. -/
theorem Inv.settled_errorEntry {s : State} (h : Inv s) (hj : s.job ≠ none) (code : ErrCode) (lo hi : Word) :
    Inv (s.settled.errorEntry code lo hi) :=
  h.settled.errorEntry (by rw [State.settled_done]; exact (h.busyClear hj).1) code lo hi

/-- A table just filled holds the curve's values (R200). -/
theorem Inv.fillLut {s : State} (h : Inv s) (tf : Curve) (g : F32) : Inv { s with lut := lutFor s.cfg.elem tf g } :=
  ⟨h.memWf, h.busyClear, h.oneEnd, h.errInfo, fun _ => rfl, h.hiZero⟩

theorem Inv.storeElem {s : State} (h : Inv s) (w : Store) : Inv (s.storeElem w) :=
  h.withMemEnv (Memory.wf_write h.memWf w) _

theorem Inv.pixelStep {s : State} (h : Inv s) (hj : s.job ≠ none) (op : JobOp) (x : JobCtx) (j : Job) (a : Nat)
    (px : Pixel) (others : List Pixel) : Inv (pixelStep op x j a px others s) := by
  rcases pixelStep_cases op x j a px others s with ⟨b, e⟩ | ⟨cur, e⟩ | ⟨w, cur, -, e⟩ <;> rw [e]
  · exact h.settled_errorEntry hj _ _ _
  · exact h.withJob hj _
  · exact (h.storeElem w).withJob hj _

/-- Every engine step (R503) keeps the invariant. -/
theorem Inv.engineStep {s : State} {j : Job} (h : Inv s) (hj : s.job = some j) (op : JobOp) (c : Cmd) :
    Inv (engineStep op c j s) := by
  have hb : s.job ≠ none := by rw [hj]; exact Option.some_ne_none j
  have he : s.settled.err = none := by rw [State.settled_err]; exact (h.busyClear hb).2
  rcases engineStep_cases op c j s with ⟨code, lo, hi, e⟩ | ⟨j', e⟩ | ⟨q, e⟩ | ⟨f, e⟩ | e | ⟨x, a, px, others, e⟩ <;> rw [e]
  · exact h.settled_errorEntry hb _ _ _
  · exact h.withJob hb _
  · exact (h.settled.withPixOut q).complete he
  · exact (h.fillLut f.tf j.args.gamma).withJob hb _
  · exact h.settled.complete he
  · exact (h.withEnv { s.env with tape := s.env.tape.tail }).pixelStep hb op x j a px others

theorem Inv.spend {s : State} (h : Inv s) : Inv s.spend := by
  unfold State.spend
  split
  · exact h
  · exact h.withEnv _

/-- Every command's meaning keeps the invariant: it is a run of engine steps, NOP's being the completion alone. -/
theorem Inv.exec {i : Instr} {s t : State} (h : Inv s) (e : exec i s = .next t) : Inv t := by
  cases hi : jobOf i with
  | none =>
    rw [jobOf_none hi] at e
    change execNop s = .next t at e
    unfold execNop at e
    split at e <;> cases e
    · exact h
    · refine (engineRun_invariant (P := Inv) (fun j u hj hu => ?_) _ s h).spend
      exact hu.settled.complete (by rw [State.settled_err]; exact (hu.busyClear (by rw [hj]; exact Option.some_ne_none j)).2)
  | some p =>
    rw [exec_eq_runJob (op := p.1) (c := p.2) hi] at e
    unfold runJob at e
    split at e <;> cases e
    · exact h
    · exact (engineRun_invariant (P := Inv) (fun j u hj hu => hu.engineStep hj _ _) _ s h).spend

/-! ### Host actions -/

theorem Inv.blockReset (cfg : Config) {m : Memory} (hm : m.wf = true) (e : Env) : Inv (State.blockReset cfg m e) where
  memWf := hm
  busyClear hj := absurd rfl hj
  oneEnd hd := by cases hd
  errInfo _ := ⟨rfl, rfl⟩
  lutExact hv := by cases hv
  hiZero _ := ⟨rfl, rfl, rfl⟩

theorem Inv.resetBlock {s : State} (h : Inv s) : Inv s.resetBlock := by
  unfold State.resetBlock
  split
  · exact Inv.blockReset _ h.settled.memWf _
  · exact Inv.blockReset _ h.memWf _

theorem Inv.accept {s : State} (h : Inv s) (he : s.err = none) : Inv s.accept where
  memWf := h.memWf
  busyClear _ := ⟨rfl, he⟩
  oneEnd _ := he
  errInfo := h.errInfo
  lutExact := h.lutExact
  hiZero := h.hiZero

theorem Inv.start {s : State} (h : Inv s) : Inv s.start := by
  rcases s.start_cases with ⟨-, he, e⟩ | ⟨-, e⟩ <;> rw [e]
  · exact h.accept he
  · exact h

theorem Inv.withEnables {s : State} (h : Inv s) (d e : Bool) : Inv { s with ieDone := d, ieErr := e } :=
  ⟨h.memWf, h.busyClear, h.oneEnd, h.errInfo, h.lutExact, h.hiZero⟩

theorem Inv.lutInvalidate {s : State} (h : Inv s) : Inv s.lutInvalidate := by
  unfold State.lutInvalidate
  split
  · exact h
  · exact ⟨h.memWf, h.busyClear, h.oneEnd, h.errInfo, fun hv => (Bool.false_ne_true hv).elim, h.hiZero⟩

theorem Inv.ite {c : Bool} {s t : State} (hs : Inv s) (ht : Inv t) : Inv (if c then s else t) := by
  cases c
  · exact ht
  · exact hs

theorem Inv.writeCtrl {s : State} (h : Inv s) (v : Word) : Inv (s.writeCtrl v) := by
  have hu : Inv (if v.getLsbD 2 then { s with ieDone := v.getLsbD 8, ieErr := v.getLsbD 9 }.lutInvalidate
      else { s with ieDone := v.getLsbD 8, ieErr := v.getLsbD 9 }) :=
    (h.withEnables _ _).lutInvalidate.ite (h.withEnables _ _)
  exact h.resetBlock.ite (hu.start.ite hu)

/-- Clearing ERR clears ERR_INFO with it (R524). A running job has neither bit to clear. -/
theorem Inv.acknowledge {s : State} (h : Inv s) (v : Word) : Inv (s.acknowledge v) := by
  rw [State.acknowledge_spec]
  cases v.getLsbD 2
  · refine ⟨h.memWf, fun hj => ?_, fun hd => ?_, h.errInfo, h.lutExact, h.hiZero⟩
    · exact ⟨by simp only [(h.busyClear hj).1, Bool.false_and], (h.busyClear hj).2⟩
    · exact h.oneEnd (Bool.and_eq_true_iff.mp hd).1
  · refine ⟨h.memWf, fun hj => ?_, fun _ => rfl, fun _ => ⟨rfl, rfl⟩, h.lutExact, h.hiZero⟩
    exact ⟨by simp only [(h.busyClear hj).1, Bool.false_and], rfl⟩

/-- R8, R44: with 32-bit addresses a `*_HI` register takes no value but 0. -/
theorem Regs.write_hiZero {r : Regs} (h : r.srcHi = 0#32 ∧ r.dstHi = 0#32 ∧ r.src2Hi = 0#32) (off : Nat) (v : Word) :
    (r.write .w32 off v).srcHi = 0#32 ∧ (r.write .w32 off v).dstHi = 0#32 ∧ (r.write .w32 off v).src2Hi = 0#32 := by
  obtain ⟨hs, hd, h2⟩ := h
  unfold Regs.write
  split
  case h_5 => exact ⟨rfl, hd, h2⟩
  case h_8 => exact ⟨hs, rfl, h2⟩
  case h_11 => exact ⟨hs, hd, rfl⟩
  case h_25 => split <;> exact ⟨hs, hd, h2⟩
  all_goals exact ⟨hs, hd, h2⟩

theorem Inv.regWrite {s : State} (h : Inv s) (off width : Nat) (v : Word) : Inv (s.regWrite off width v) := by
  unfold State.regWrite
  split
  · exact h
  · split
    · exact h.writeCtrl v
    · split
      · exact h.acknowledge v
      · refine ⟨h.memWf, h.busyClear, h.oneEnd, h.errInfo, h.lutExact, fun hw => ?_⟩
        have hc : s.cfg.addrW = .w32 := hw
        simpa only [hc] using Regs.write_hiZero (h.hiZero hc) off v

theorem Inv.regRead {s : State} (h : Inv s) (off width : Nat) : Inv (s.regRead off width) := by
  unfold State.regRead State.observe
  split
  · exact h.withEnv _
  · dsimp only
    split
    · split
      · exact h.withEnv _
      · exact h.withEnv _
    · exact h.withEnv _

theorem Inv.hostStore {s : State} (h : Inv s) (a : Nat) (v : Byte) : Inv (s.hostStore a v) := by
  have hp : Inv (s.putByte a v) := h.withMemEnv (Memory.wf_setByte h.memWf a v) _
  unfold State.hostStore
  dsimp only
  split
  · exact hp
  · split
    · exact (hp.withEnv _).drawBytes _
    · exact hp.drawBytes _

theorem Inv.hostLoad {s : State} (h : Inv s) (a : Nat) : Inv (s.hostLoad a) := by
  unfold State.hostLoad
  split <;> exact h.withEnv _

/-- A memory access either is at an address that does not exist or answers the state given. -/
theorem inSpace_next {s t u : State} {a : Nat} (h : inSpace s a t = .next u) : u = t := by
  unfold inSpace at h
  split at h <;> cases h
  rfl

/-- Every action of the host or the platform keeps the invariant. -/
theorem Inv.hostStep {act : HostAct} {s t : State} (h : Inv s) (e : hostStep act s = .next t) : Inv t := by
  cases act with
  | regWrite off width v => cases e; exact h.regWrite off width v
  | regRead off width => cases e; exact h.regRead off width
  | memStore a v => cases inSpace_next e; exact h.hostStore a v
  | memLoad a => cases inSpace_next e; exact h.hostLoad a
  | cacheClean lo len => cases e; exact h.withEnv _
  | cacheInvalidate lo len => cases e; exact h.withEnv _
  | powerOnReset => cases e; exact h.resetBlock

/-! ### The machine's step -/

/-- When the host's turn comes, only its pending action is taken off the list. -/
theorem State.hostTurn_some {s u : State} {act : HostAct} (h : s.hostTurn = some (act, u)) :
    ∃ i rest, s.env.inputs = i :: rest ∧ i.act = act ∧ u = { s with env := { s.env with inputs := rest } } := by
  unfold State.hostTurn at h
  split at h
  · cases h
  · next i rest hi =>
    split at h <;> cases h
    exact ⟨i, rest, hi, rfl, rfl⟩

/-- What one step of the machine does (R503): the host's action, waiting, the running job's command, or the ILLEGAL_CMD
of a word that is no command. -/
theorem step_cases (s : State) :
    (∃ i rest, s.env.inputs = i :: rest ∧ step s = hostStep i.act { s with env := { s.env with inputs := rest } })
    ∨ (s.job = none ∧ step s = .next s)
    ∨ (∃ i, step s = exec i s)
    ∨ (s.job ≠ none ∧ ∃ w, step s = .next (undecodable w s)) := by
  unfold step
  split
  · next act u h =>
    obtain ⟨i, rest, hi, rfl, rfl⟩ := State.hostTurn_some h
    exact .inl ⟨i, rest, hi, rfl⟩
  · unfold State.fetch
    cases hj : s.job with
    | none => exact .inr (.inl ⟨rfl, rfl⟩)
    | some j =>
      dsimp only [Option.map_some]
      split
      · next i _ => exact .inr (.inr (.inl ⟨i, rfl⟩))
      · exact .inr (.inr (.inr ⟨Option.some_ne_none j, _, rfl⟩))

/-- Settles O37: the step's four cases, each by the lemma that says its operation keeps the invariant. -/
theorem stepKeepsInvariant : Obligations.StepKeepsInvariant := by
  intro s t h e
  rcases step_cases s with ⟨i, rest, -, hs⟩ | ⟨-, hs⟩ | ⟨i, hs⟩ | ⟨hj, w, hs⟩ <;> rw [hs] at e
  · exact (h.withEnv _).hostStep e
  · cases e; exact h
  · exact h.exec e
  · cases e; exact h.settled_errorEntry hj _ _ _

end Sys2Proof.Machine
end

section
/-! PROOFS. LANES and ROW_ENGINES are visible in FEATURES only (R15, R374): no rule of a job reads them, so a run in a
machine with other values of the two goes through the same states (O39). -/

namespace Sys2Proof.Machine

/-! ### The same machine with other values of the two parameters -/

def Config.withLanes (cfg : Config) (l : Lanes) (n : Nat) : Config := { cfg with lanes := l, rowEngines := n }

def JobCtx.withLanes (x : JobCtx) (l : Lanes) (n : Nat) : JobCtx := { x with cfg := Config.withLanes x.cfg l n }

def State.withLanes (s : State) (l : Lanes) (n : Nat) : State := { s with cfg := Config.withLanes s.cfg l n }

@[simp] theorem State.withLanes_cfg (s : State) (l : Lanes) (n : Nat) :
    (s.withLanes l n).cfg = Config.withLanes s.cfg l n := rfl
@[simp] theorem State.withLanes_job (s : State) (l : Lanes) (n : Nat) : (s.withLanes l n).job = s.job := rfl
@[simp] theorem State.withLanes_env (s : State) (l : Lanes) (n : Nat) : (s.withLanes l n).env = s.env := rfl
@[simp] theorem JobCtx.withLanes_f (x : JobCtx) (l : Lanes) (n : Nat) : (x.withLanes l n).f = x.f := rfl

/-! ### What a command reads -/

/-- A command that reads neither parameter. -/
structure JobOp.LaneBlind (op : JobOp) : Prop where
  legal : ∀ x l n, op.legal (x.withLanes l n) = op.legal x
  alpha : ∀ x l n, op.alpha (x.withLanes l n) = op.alpha x
  sources : ∀ x l n, op.sources (x.withLanes l n) = op.sources x
  dests : ∀ x l n, op.dests (x.withLanes l n) = op.dests x
  srcElems : ∀ x l n, op.srcElems (x.withLanes l n) = op.srcElems x
  dstElems : ∀ x l n, op.dstElems (x.withLanes l n) = op.dstElems x
  body : ∀ x l n, op.body (x.withLanes l n) = op.body x

/-- Every command of the table reads ADDR_W, the compare unit's presence and ELEM at most, so both sides of each field
unfold to the same term. -/
theorem laneBlind_of_jobOf {i : Instr} {op : JobOp} {c : Cmd} (h : jobOf i = some (op, c)) : op.LaneBlind := by
  cases i <;> cases h <;>
    exact ⟨fun _ _ _ => rfl, fun _ _ _ => rfl, fun _ _ _ => rfl, fun _ _ _ => rfl, fun _ _ _ => rfl, fun _ _ _ => rfl,
      fun _ _ _ => rfl⟩

section
variable {op : JobOp} (hb : op.LaneBlind) (x : JobCtx) (l : Lanes) (n : Nat)
include hb

theorem addressErr_withLanes : addressErr op (x.withLanes l n) = addressErr op x := by
  unfold addressErr arguments
  rw [hb.sources, hb.dests]
  rfl

theorem firstErr_withLanes : firstErr op (x.withLanes l n) = firstErr op x := by
  unfold firstErr
  rw [hb.legal, hb.alpha, addressErr_withLanes hb]
  rfl

theorem cursorOf_withLanes : cursorOf op (x.withLanes l n) = cursorOf op x := by
  have hp : newPixel op (x.withLanes l n) = newPixel op x := by
    funext c y
    rw [newPixel, newPixel, pixelReads, pixelReads, hb.srcElems]
  rw [cursorOf, cursorOf, hp]
  rfl

theorem immResult_withLanes : immResult op (x.withLanes l n) = immResult op x := by
  unfold immResult
  rw [hb.srcElems, hb.dstElems, hb.body]
  rfl

theorem afterRead_withLanes (px : Pixel) (todo : List (Nat × Access)) (got : List (Nat × Word)) :
    afterRead op (x.withLanes l n) px todo got = afterRead op x px todo got := by
  unfold afterRead pixelStores
  rw [hb.dstElems, hb.body]

end

/-! ### Engine steps commute with the change of parameters -/

theorem State.drawBytes_withLanes (l : Lanes) (n : Nat) :
    ∀ (bs : List Nat) (s : State), (s.withLanes l n).drawBytes bs = (s.drawBytes bs).withLanes l n
  | [], _ => rfl
  | a :: rest, s => State.drawBytes_withLanes l n rest (s.drawByte a)

theorem State.settled_withLanes (s : State) (l : Lanes) (n : Nat) :
    (s.withLanes l n).settled = s.settled.withLanes l n :=
  State.drawBytes_withLanes l n s.env.doomed s

theorem State.raise_withLanes (s : State) (e : CheckErr) (l : Lanes) (n : Nat) :
    (s.withLanes l n).raise e = (s.raise e).withLanes l n := by
  rw [State.raise, State.settled_withLanes]
  rfl

theorem State.busEntry_withLanes (s : State) (a : Nat) (l : Lanes) (n : Nat) :
    (s.withLanes l n).busEntry a = (s.busEntry a).withLanes l n := by
  rw [State.busEntry, State.settled_withLanes]
  rfl

/-- R117, R123: the platform's answer to an access rests on neither parameter. -/
theorem busFault_withLanes (cfg : Config) (l : Lanes) (n : Nat) (c : Access) (w : Bool) :
    busFault (Config.withLanes cfg l n) c w = busFault cfg c w := rfl

section
variable {op : JobOp} (hb : op.LaneBlind) (x : JobCtx) (j : Job) (s : State) (l : Lanes) (n : Nat)
include hb

theorem checkStep_withLanes :
    checkStep op (x.withLanes l n) j (s.withLanes l n) = (checkStep op x j s).withLanes l n := by
  unfold checkStep
  rw [firstErr_withLanes hb, cursorOf_withLanes hb]
  cases firstErr op x with
  | none => rfl
  | some e => exact s.raise_withLanes e l n

theorem finishStep_withLanes :
    finishStep op (x.withLanes l n) (s.withLanes l n) = (finishStep op x s).withLanes l n := by
  unfold finishStep
  rw [immResult_withLanes hb, State.settled_withLanes, JobCtx.withLanes_f]
  cases x.f.imm <;> rfl

theorem pixelStep_withLanes (a : Nat) (px : Pixel) (others : List Pixel) :
    pixelStep op (x.withLanes l n) j a px others (s.withLanes l n) = (pixelStep op x j a px others s).withLanes l n := by
  unfold pixelStep
  rw [State.withLanes_cfg]
  cases px.stage with
  | reading todo got =>
    dsimp only
    rw [afterRead_withLanes hb]
    cases pick a todo with
    | none => rfl
    | some p =>
      dsimp only
      rw [afterRead_withLanes hb, State.busEntry_withLanes, busFault_withLanes]
      cases busFault s.cfg p.1.2 false <;> rfl
  | writing left =>
    dsimp only
    cases pick a left with
    | none => rfl
    | some p =>
      dsimp only
      rw [State.busEntry_withLanes, busFault_withLanes]
      cases busFault s.cfg p.1.access true <;> rfl

theorem accessStep_withLanes :
    accessStep op (x.withLanes l n) j (s.withLanes l n) = (accessStep op x j s).withLanes l n := by
  unfold accessStep
  dsimp only [State.withLanes_env]
  cases pick (s.env.tape.headD (0, 0)).1 j.cursor with
  | none => exact congrArg State.complete (s.settled_withLanes l n)
  | some p => exact pixelStep_withLanes hb x j { s with env := { s.env with tape := s.env.tape.tail } } l n _ _ _

/-- The simulation's one step (R503). -/
theorem engineStep_withLanes (c : Cmd) :
    engineStep op c j (s.withLanes l n) = (engineStep op c j s).withLanes l n := by
  unfold engineStep
  cases resolve c with
  | none => exact s.raise_withLanes _ l n
  | some f =>
    dsimp only
    cases j.phase with
    | check => exact checkStep_withLanes hb ⟨s.cfg, j.args, f⟩ j s l n
    | finish => exact finishStep_withLanes hb ⟨s.cfg, j.args, f⟩ s l n
    | lut => rfl
    | traverse => exact accessStep_withLanes hb ⟨s.cfg, j.args, f⟩ j s l n

/-- R585: the bound on a job's engine steps is the same. -/
theorem stepsLeft_withLanes (c : Cmd) (cfg : Config) :
    stepsLeft op c (Config.withLanes cfg l n) j = stepsLeft op c cfg j := by
  unfold stepsLeft
  cases resolve c with
  | none => rfl
  | some f =>
    have hs := hb.srcElems ⟨cfg, j.args, f⟩ l n
    have hd := hb.dstElems ⟨cfg, j.args, f⟩ l n
    unfold JobCtx.withLanes at hs hd
    dsimp only at hs hd ⊢
    rw [hs, hd]

end

/-! ### Runs -/

/-- A run commutes with the change of parameters where each of its steps does. -/
theorem engineRun_withLanes {g : Job → State → State} {l : Lanes} {n : Nat}
    (hg : ∀ j s, g j (s.withLanes l n) = (g j s).withLanes l n) :
    ∀ (k : Nat) (s : State), engineRun g k (s.withLanes l n) = (engineRun g k s).withLanes l n
  | 0, _ => rfl
  | k + 1, s => by
    cases hj : s.job with
    | none => rw [engineRun_none hj, engineRun_none (s := s.withLanes l n) hj]
    | some j => rw [engineRun_some hj, engineRun_some (s := s.withLanes l n) hj, hg, engineRun_withLanes hg k]

theorem State.spend_withLanes (s : State) (l : Lanes) (n : Nat) : (s.withLanes l n).spend = s.spend.withLanes l n := by
  unfold State.spend
  rw [State.withLanes_env]
  cases s.env.inputs <;> rfl

theorem execNop_withLanes (s : State) (l : Lanes) (n : Nat) :
    ∃ t, execNop s = .next t ∧ execNop (s.withLanes l n) = .next (t.withLanes l n) := by
  cases hj : s.job with
  | none => exact ⟨s, by rw [execNop, hj], by rw [execNop, State.withLanes_job, hj]⟩
  | some j =>
    refine ⟨_, by rw [execNop, hj], ?_⟩
    rw [execNop, State.withLanes_job, hj, ← State.spend_withLanes, ← engineRun_withLanes]
    · rfl
    · exact fun _ u => congrArg State.complete (u.settled_withLanes l n)

theorem runJob_withLanes {op : JobOp} (hb : op.LaneBlind) (c : Cmd) (s : State) (l : Lanes) (n : Nat) :
    ∃ t, runJob op c s = .next t ∧ runJob op c (s.withLanes l n) = .next (t.withLanes l n) := by
  cases hj : s.job with
  | none => exact ⟨s, by rw [runJob, hj], by rw [runJob, State.withLanes_job, hj]⟩
  | some j =>
    refine ⟨_, by rw [runJob, hj], ?_⟩
    rw [runJob, State.withLanes_job, hj, ← State.spend_withLanes,
      ← engineRun_withLanes fun j u => engineStep_withLanes hb j u l n c]
    dsimp only
    rw [State.withLanes_cfg, stepsLeft_withLanes hb]
    rfl

/-- Settles O39: a simulation, one engine step at a time, over a run of the same length. -/
theorem lanesAreInvisible : Obligations.LanesAreInvisible := by
  intro i s l n
  cases hi : jobOf i with
  | none => rw [jobOf_none hi]; exact execNop_withLanes s l n
  | some p =>
    have hr := exec_eq_runJob (op := p.1) (c := p.2) hi
    obtain ⟨t, h, hv⟩ := runJob_withLanes (laneBlind_of_jobOf (c := p.2) hi) p.2 s l n
    exact ⟨t, (hr s).trans h, (hr _).trans hv⟩

end Sys2Proof.Machine
end

section
/-! PROOFS. No step stops the machine (R529, R534): no operation changes the parameters or the host's coming actions, but
that a step takes the next action off the list or uses up the engine steps before it; so the host stays in its space
(O38). -/

namespace Sys2Proof.Machine

/-! ### What leaves the parameters and the host's coming actions alone -/

/-- `t` has the parameters and the coming host actions of `s`. -/
def SameInputs (s t : State) : Prop := t.cfg = s.cfg ∧ t.env.inputs = s.env.inputs

theorem SameInputs.refl (s : State) : SameInputs s s := ⟨rfl, rfl⟩

theorem SameInputs.trans {s t u : State} (h : SameInputs s t) (h' : SameInputs t u) : SameInputs s u :=
  ⟨h'.1.trans h.1, h'.2.trans h.2⟩

theorem SameInputs.ite {c : Bool} {s t u : State} (ht : SameInputs s t) (hu : SameInputs s u) :
    SameInputs s (if c then t else u) := by
  cases c
  · exact hu
  · exact ht

theorem State.settled_sameInputs (s : State) : SameInputs s s.settled := by
  obtain ⟨m, d, h⟩ := s.settled_eq
  rw [h]
  exact ⟨rfl, rfl⟩

theorem pixelStep_sameInputs (op : JobOp) (x : JobCtx) (j : Job) (a : Nat) (px : Pixel) (others : List Pixel)
    (s : State) : SameInputs s (pixelStep op x j a px others s) := by
  rcases pixelStep_cases op x j a px others s with ⟨b, e⟩ | ⟨cur, e⟩ | ⟨w, cur, -, e⟩ <;> rw [e]
  · exact s.settled_sameInputs
  · exact ⟨rfl, rfl⟩
  · exact ⟨rfl, rfl⟩

theorem engineStep_sameInputs (op : JobOp) (c : Cmd) (j : Job) (s : State) : SameInputs s (engineStep op c j s) := by
  rcases engineStep_cases op c j s with ⟨code, lo, hi, e⟩ | ⟨j', e⟩ | ⟨q, e⟩ | ⟨f, e⟩ | e | ⟨x, a, px, others, e⟩ <;> rw [e]
  · exact s.settled_sameInputs
  · exact ⟨rfl, rfl⟩
  · exact s.settled_sameInputs
  · exact ⟨rfl, rfl⟩
  · exact s.settled_sameInputs
  · exact pixelStep_sameInputs op x j a px others { s with env := { s.env with tape := s.env.tape.tail } }

/-- A run changes neither where its steps do not. -/
theorem engineRun_sameInputs {g : Job → State → State} (hg : ∀ j s, SameInputs s (g j s)) (n : Nat) (s : State) :
    SameInputs s (engineRun g n s) :=
  engineRun_invariant (P := SameInputs s) (fun j u _ hu => hu.trans (hg j u)) n s (SameInputs.refl s)

theorem State.resetBlock_sameInputs (s : State) : SameInputs s s.resetBlock := by
  obtain ⟨m, d, e⟩ := s.resetBlock_spec
  rw [e]
  exact ⟨rfl, rfl⟩

theorem State.start_sameInputs (s : State) : SameInputs s s.start := by
  rcases s.start_cases with ⟨-, -, e⟩ | ⟨-, e⟩ <;> rw [e]
  · exact ⟨rfl, rfl⟩
  · exact SameInputs.refl s

theorem State.writeCtrl_sameInputs (s : State) (v : Word) : SameInputs s (s.writeCtrl v) := by
  have hl : ∀ u : State, SameInputs u u.lutInvalidate := fun u => (SameInputs.refl u).ite ⟨rfl, rfl⟩
  have hu : SameInputs s (if v.getLsbD 2 then { s with ieDone := v.getLsbD 8, ieErr := v.getLsbD 9 }.lutInvalidate
      else { s with ieDone := v.getLsbD 8, ieErr := v.getLsbD 9 }) :=
    (hl { s with ieDone := v.getLsbD 8, ieErr := v.getLsbD 9 }).ite ⟨rfl, rfl⟩
  exact s.resetBlock_sameInputs.ite ((hu.trans (State.start_sameInputs _)).ite hu)

theorem State.regWrite_sameInputs (s : State) (off width : Nat) (v : Word) : SameInputs s (s.regWrite off width v) := by
  unfold State.regWrite
  split
  · exact SameInputs.refl s
  · split
    · exact s.writeCtrl_sameInputs v
    · split
      · rw [State.acknowledge_spec]; exact ⟨rfl, rfl⟩
      · exact ⟨rfl, rfl⟩

theorem State.regRead_sameInputs (s : State) (off width : Nat) : SameInputs s (s.regRead off width) := by
  have ho : ∀ u : State, SameInputs u u.observe := fun u => (SameInputs.refl u).ite ⟨rfl, rfl⟩
  unfold State.regRead
  split
  · exact ⟨rfl, rfl⟩
  · dsimp only
    split
    · exact ho { s with env := { s.env with readData := s.readReg off } }
    · exact ⟨rfl, rfl⟩

theorem State.hostStore_sameInputs (s : State) (a : Nat) (v : Byte) : SameInputs s (s.hostStore a v) := by
  obtain ⟨m, d, e⟩ := s.hostStore_eq a v
  rw [e]
  exact ⟨rfl, rfl⟩

theorem State.hostLoad_sameInputs (s : State) (a : Nat) : SameInputs s (s.hostLoad a) :=
  SameInputs.ite ⟨rfl, rfl⟩ ⟨rfl, rfl⟩

/-! ### The host in its address space (R8) -/

/-- An action that makes no memory access outside the address space. -/
def HostAct.inSpace (cfg : Config) (act : HostAct) : Prop :=
  match act with
  | .memStore a _ => a < spaceSize cfg.addrW
  | .memLoad a => a < spaceSize cfg.addrW
  | _ => True

theorem hostInSpace_iff {s : State} : HostInSpace s ↔ ∀ i ∈ s.env.inputs, i.act.inSpace s.cfg := Iff.rfl

theorem SameInputs.hostInSpace {s t : State} (h : SameInputs s t) (hs : HostInSpace s) : HostInSpace t := by
  rw [hostInSpace_iff] at hs ⊢
  rw [h.1, h.2]
  exact hs

/-- Using up the engine steps before the host's next action leaves the actions themselves. -/
theorem HostInSpace.spend {s : State} (h : HostInSpace s) : HostInSpace s.spend := by
  unfold State.spend
  split
  · exact h
  · next i rest hi =>
    rw [hostInSpace_iff, hi] at h
    rw [hostInSpace_iff]
    exact List.forall_mem_cons.mpr (List.forall_mem_cons.mp h)

/-- A host action at an existing address does not stop the machine (R8). -/
theorem hostStep_next {act : HostAct} {s : State} (h : act.inSpace s.cfg) :
    ∃ t, hostStep act s = .next t ∧ SameInputs s t := by
  cases act with
  | regWrite off width v => exact ⟨_, rfl, s.regWrite_sameInputs off width v⟩
  | regRead off width => exact ⟨_, rfl, s.regRead_sameInputs off width⟩
  | memStore a v => exact ⟨_, if_pos h, s.hostStore_sameInputs a v⟩
  | memLoad a => exact ⟨_, if_pos h, s.hostLoad_sameInputs a⟩
  | cacheClean lo len => exact ⟨_, rfl, rfl, rfl⟩
  | cacheInvalidate lo len => exact ⟨_, rfl, rfl, rfl⟩
  | powerOnReset => exact ⟨_, rfl, s.resetBlock_sameInputs⟩

/-- Every command answers a next state (R154), up to the host's next action. -/
theorem exec_hostInSpace (i : Instr) {s : State} (h : HostInSpace s) : ∃ t, exec i s = .next t ∧ HostInSpace t := by
  cases hi : jobOf i with
  | none =>
    rw [jobOf_none hi]
    change ∃ t, execNop s = .next t ∧ _
    unfold execNop
    cases s.job with
    | none => exact ⟨s, rfl, h⟩
    | some j =>
      have hr := engineRun_sameInputs (g := fun _ u => u.settled.complete) (fun _ u => u.settled_sameInputs)
      exact ⟨_, rfl, ((hr _ s).hostInSpace h).spend⟩
  | some p =>
    rw [exec_eq_runJob (op := p.1) (c := p.2) hi, runJob]
    cases s.job with
    | none => exact ⟨s, rfl, h⟩
    | some j => exact ⟨_, rfl, ((engineRun_sameInputs (engineStep_sameInputs p.1 p.2) _ s).hostInSpace h).spend⟩

/-- Settles O38, by the four cases of a step. -/
theorem noStepStops : Obligations.NoStepStops := by
  intro s h
  rcases step_cases s with ⟨i, rest, hin, hs⟩ | ⟨-, hs⟩ | ⟨i, hs⟩ | ⟨-, w, hs⟩ <;> rw [hs]
  · rw [hostInSpace_iff, hin] at h
    obtain ⟨hi, hrest⟩ := List.forall_mem_cons.mp h
    obtain ⟨t, ht, hsame⟩ := hostStep_next (s := { s with env := { s.env with inputs := rest } }) hi
    exact ⟨t, ht, hsame.hostInSpace hrest⟩
  · exact ⟨s, rfl, h⟩
  · exact exec_hostInSpace i h
  · exact ⟨_, rfl, s.settled_sameInputs.hostInSpace h⟩

end Sys2Proof.Machine
end

section
/-! PROOFS. The START checks in their order (R511): how a failed check ends a job that has just been accepted, and the
RANGE check (R517; O27). -/

namespace Sys2Proof.Machine

/-! ### A failed check ends the job -/

/-- The first failed check of a job just accepted is its end (R520): the run stops after the check step. -/
theorem exec_of_firstErr {i : Instr} {op : JobOp} {c : Cmd} {f : Fields} {s : State} {j : Job} {e : CheckErr}
    (hi : jobOf i = some (op, c)) (hs : Started s j) (hf : resolve c = some f) (he : firstErr op (ctxOf s j f) = some e) :
    exec i s = .next (s.settled.errorEntry e.code e.lo e.hi) := by
  have hstep : engineStep op c j s = s.raise e := by
    rw [engineStep, hf]
    dsimp only
    rw [hs.unchecked]
    simp only [checkStep, show firstErr op ⟨s.cfg, j.args, f⟩ = some e from he]
  obtain ⟨n, hn⟩ : ∃ n, stepsLeft op c s.cfg j = n + 1 := by
    rw [stepsLeft, hf]
    dsimp only
    rw [hs.unchecked]
    exact ⟨_, Nat.add_comm 3 _⟩
  have hin : (s.raise e).env.inputs = [] := s.settled_sameInputs.2.trans hs.alone
  rw [exec_eq_runJob hi, runJob_alone hs.running hs.alone, hn, engineRun_some hs.running, hstep,
    engineRun_none (s := s.raise e) rfl, State.spend_nil hin]
  rfl

/-! ### The checks before the address checks pass -/

/-- R513: no error where every checked register is finite and positive. -/
theorem paramErr_none {a : Regs} : ∀ {l : List Param}, (∀ p ∈ l, isPosFinite (p.value a) = true) → paramErr a l = none
  | [], _ => rfl
  | p :: rest, h => by
    obtain ⟨hp, hrest⟩ := List.forall_mem_cons.mp h
    rw [paramErr, if_pos hp]
    exact paramErr_none hrest

/-- A legal command with legal registers and AMODE comes to the address checks, where it addresses memory (R511). -/
theorem firstErr_eq_addressErr {op : JobOp} {x : JobCtx} (hl : op.legal x = true)
    (hp : ∀ p ∈ checkedParams op x, isPosFinite (p.value x.args) = true) (ha : op.alpha x = true)
    (hx : addressed x = true) : firstErr op x = addressErr op x := by
  simp [firstErr, hl, paramErr_none hp, ha, hx]

/-! ### RANGE (R517) -/

theorem spaceSize_pos (w : AddrWidth) : 0 < spaceSize w := by cases w <;> decide

/-- The first argument whose span ends past the address space is the one reported. -/
theorem rangeErr_first {space w h : Nat} {b : BufArg} {post : List BufArg} (hb : space < spanEnd w h b) :
    ∀ {pre : List BufArg}, (∀ d ∈ pre, spanEnd w h d ≤ space) →
      rangeErr space w h (pre ++ b :: post) = some (infoErr .range b.id)
  | [], _ => if_pos hb
  | d :: pre, hpre => by
    obtain ⟨hd, hrest⟩ := List.forall_mem_cons.mp hpre
    rw [List.cons_append, rangeErr, if_neg (Nat.not_lt.mpr hd)]
    exact rangeErr_first hb hrest

/-- Settles O27: the earlier checks pass, and the last byte of a span is one below its end. -/
theorem spanPastSpaceIsRange : Obligations.SpanPastSpaceIsRange := by
  intro i op c f s j hi hs hf x hlegal hparams halpha hx pre b post hargs halign hstride last hpre hb
  have hspace := spaceSize_pos s.cfg.addrW
  have hrange : rangeErr (spaceSize s.cfg.addrW) j.args.width.toNat j.args.height.toNat (arguments op x)
      = some (infoErr .range b.id) := by
    rw [hargs]
    refine rangeErr_first ?_ fun d hd => ?_
    · simp only [last] at hb
      unfold spanEnd
      omega
    · have := hpre d hd
      simp only [last] at this
      unfold spanEnd
      omega
  have haddr : addressErr op x = some (infoErr .range b.id) := by
    unfold addressErr
    simp only [halign, show strideErr x.args.width.toNat (arguments op x) = none from hstride,
      show rangeErr (spaceSize x.cfg.addrW) x.args.width.toNat x.args.height.toNat (arguments op x) = _ from hrange]
  exact exec_of_firstErr hi hs hf ((firstErr_eq_addressErr hlegal hparams halpha hx).trans haddr)

end Sys2Proof.Machine
end

section
/-! PROOFS. The register file as the host sees it (R44, R73): a write of a register of the map or of a bank entry is read
back, and every other offset reads as before (O40). -/

namespace Sys2Proof.Machine

/-! ### The coefficient bank (R73) -/

theorem Mat3.get_set_same (m : Mat3) {i : Nat} (hi : i < 9) (v : F32) : (m.set i v).get i = v := by
  interval_cases i <;> rfl

theorem Mat3.get_set_other (m : Mat3) {i k : Nat} (hi : i < 9) (hk : k < 9) (h : k ≠ i) (v : F32) :
    (m.set i v).get k = m.get k := by
  interval_cases i <;> interval_cases k <;> trivial

theorem Bank.get_set_same (b : Bank) {k : Nat} (hk : k < 12) (m : Mat3) : (b.set k m).get k = m := by
  interval_cases k <;> rfl

theorem Bank.get_set_other (b : Bank) {k n : Nat} (hk : k < 12) (hn : n < 12) (h : n ≠ k) (m : Mat3) :
    (b.set k m).get n = b.get n := by
  interval_cases k <;> interval_cases n <;> trivial

/-- A bank of which one entry was written, read at another entry. -/
theorem Bank.entry_set_other (b : Bank) {k i n l : Nat} (hk : k < 12) (hi : i < 9) (hn : n < 12) (hl : l < 9)
    (h : (n, l) ≠ (k, i)) (v : F32) : ((b.set k ((b.get k).set i v)).get n).get l = (b.get n).get l := by
  by_cases hnk : n = k
  · subst hnk
    rw [Bank.get_set_same b hk, Mat3.get_set_other _ hi hl fun e => h (congrArg (Prod.mk n) e)]
  · rw [Bank.get_set_other b hk hn hnk]

/-- The slot and entry that an aligned offset names, and the offset that a slot and entry have. -/
theorem bankEntry_iff {off k i : Nat} (ha : off % 4 = 0) :
    bankEntry off = some (k, i) ↔ k < 12 ∧ i < 9 ∧ off = 0x100 + 0x40 * k + 4 * i := by
  unfold bankEntry
  split
  · rw [Option.some.injEq, Prod.mk.injEq]
    omega
  · exact iff_of_false nofun fun h => by omega

/-- R73: the offset of a bank entry is none of the other registers'. -/
theorem Regs.write_bank (r : Regs) (w : AddrWidth) {off k i : Nat} (hb : bankEntry off = some (k, i)) (v : Word) :
    r.write w off v = { r with bank := r.bank.set k ((r.bank.get k).set i v) } := by
  unfold Regs.write
  split
  case h_25 => rw [hb]
  all_goals cases hb

theorem State.readReg_bank (s : State) {off k i : Nat} (hb : bankEntry off = some (k, i)) :
    s.readReg off = (s.regs.bank.get k).get i := by
  unfold State.readReg
  split
  case h_35 => rw [hb]
  all_goals cases hb

/-- No other offset shows the bank. -/
theorem State.readReg_of_no_bank (s : State) (b : Bank) {off : Nat} (hb : bankEntry off = none) :
    { s with regs := { s.regs with bank := b } }.readReg off = s.readReg off := by
  unfold State.readReg
  split
  case h_35 => rw [hb]
  all_goals rfl

/-! ### The register window -/

/-- A write of a latched register changes the register file alone. -/
theorem State.regWrite_latched (s : State) {off : Nat} (ha : off % 4 = 0) (hw : off < 4096) (hc : off ≠ 0x008)
    (hs : off ≠ 0x00C) (v : Word) : s.regWrite off 4 v = { s with regs := s.regs.write s.cfg.addrW off v } := by
  simp [State.regWrite, isRegAccess, ha, hw, hc, hs]

/-- R44: a register of the map reads back what it took. -/
theorem State.readReg_write_same (s : State) (w : AddrWidth) {off : Nat} (h : off ∈ plainOffsets) (v : Word) :
    { s with regs := s.regs.write w off v }.readReg off = v := by
  unfold plainOffsets at h
  fin_cases h <;> rfl

theorem State.readReg_write_hi (s : State) {off : Nat} (h : off ∈ hiOffsets) (v : Word) :
    { s with regs := s.regs.write s.cfg.addrW off v }.readReg off = hiWord s.cfg.addrW (hiWord s.cfg.addrW v) := by
  unfold hiOffsets at h
  fin_cases h <;> rfl

/-- A register of the map is a field of its own: no other offset shows it. The field written is compared with the field,
if any, that each offset of the window reads. -/
theorem State.readReg_write_other (s : State) (w : AddrWidth) {off o : Nat} (h : off ∈ plainOffsets ++ hiOffsets)
    (ho : o ≠ off) (v : Word) : { s with regs := s.regs.write w off v }.readReg o = s.readReg o := by
  unfold plainOffsets hiOffsets at h
  fin_cases h <;> unfold State.readReg <;> split <;> trivial

theorem mapOffset_aligned {off : Nat} (h : off ∈ plainOffsets ++ hiOffsets) :
    off % 4 = 0 ∧ off < 4096 ∧ off ≠ 0x008 ∧ off ≠ 0x00C := by
  revert off
  decide

theorem regWrite_map (s : State) {off : Nat} (h : off ∈ plainOffsets ++ hiOffsets) (v : Word) :
    s.regWrite off 4 v = { s with regs := s.regs.write s.cfg.addrW off v } := by
  obtain ⟨ha, hw, hc, hs⟩ := mapOffset_aligned h
  exact s.regWrite_latched ha hw hc hs v

/-- A register of the map: read back in full, where it holds all 32 bits. -/
theorem mapRegister_readsBack (s : State) {off : Nat} (h : off ∈ plainOffsets ++ hiOffsets) (v : Word)
    (hback : { s with regs := s.regs.write s.cfg.addrW off v }.readReg off = v) :
    let t := s.regWrite off 4 v
    t.readReg off = v ∧ (∀ o, o < 4096 → o % 4 = 0 → o ≠ off → t.readReg o = s.readReg o)
      ∧ ∃ r, t = { s with regs := r } := by
  dsimp only
  rw [regWrite_map s h]
  exact ⟨hback, fun o _ _ ho => s.readReg_write_other _ h ho v, _, rfl⟩

/-- A bank entry: read back in full. -/
theorem bankRegister_readsBack (s : State) {k i : Nat} (hk : k < 12) (hi : i < 9) (v : Word) :
    let off := 0x100 + 0x40 * k + 4 * i
    let t := s.regWrite off 4 v
    t.readReg off = v ∧ (∀ o, o < 4096 → o % 4 = 0 → o ≠ off → t.readReg o = s.readReg o)
      ∧ ∃ r, t = { s with regs := r } := by
  intro off t
  have ha : off % 4 = 0 := by omega
  have hb : bankEntry off = some (k, i) := (bankEntry_iff ha).mpr ⟨hk, hi, rfl⟩
  have ht : t = { s with regs := { s.regs with bank := s.regs.bank.set k ((s.regs.bank.get k).set i v) } } := by
    rw [← Regs.write_bank s.regs s.cfg.addrW hb]
    exact s.regWrite_latched ha (by omega) (by omega) (by omega) v
  rw [ht]
  refine ⟨?_, fun o _ hoa ho => ?_, _, rfl⟩
  · rw [State.readReg_bank _ hb]
    dsimp only
    rw [Bank.get_set_same _ hk, Mat3.get_set_same _ hi]
  · rcases hbo : bankEntry o with _ | ⟨n, l⟩
    · exact s.readReg_of_no_bank _ hbo
    · obtain ⟨hn, hl, rfl⟩ := (bankEntry_iff hoa).mp hbo
      rw [State.readReg_bank _ hbo, State.readReg_bank _ hbo]
      refine Bank.entry_set_other _ hk hi hn hl (fun e => ho ?_) v
      obtain ⟨rfl, rfl⟩ := Prod.mk.inj e
      rfl

/-- Settles O40: the registers of the map by their fields, the bank by slot and entry. -/
theorem registersReadBack : Obligations.RegistersReadBack := by
  intro s off v
  refine ⟨fun h => ?_, fun hw h => ?_⟩
  · rcases h with h | ⟨k, i, hk, hi, rfl⟩ | ⟨hw, h⟩
    · exact mapRegister_readsBack s (List.mem_append_left _ h) v (s.readReg_write_same _ h v)
    · exact bankRegister_readsBack s hk hi v
    · refine mapRegister_readsBack s (List.mem_append_right _ h) v ?_
      rw [s.readReg_write_hi h, hw]
      rfl
  · rw [regWrite_map s (List.mem_append_right _ h), s.readReg_write_hi h, hw]
    rfl

end Sys2Proof.Machine
end

section
/-! PROOFS. Rounding (R13, R20, R22): encodings are in the order of their values, the rational to round lies between two
neighbours whose distance is one unit of its binade, and `roundMag` takes the nearer one (O53). -/

namespace Sys2Proof.Machine

/-! ### The value of a magnitude encoding -/

/-- The value of magnitude encoding `m`, in units of 2^-149. -/
def magUnits (m : Nat) : Nat := if m / 2 ^ 23 = 0 then m else (2 ^ 23 + m % 2 ^ 23) * 2 ^ (m / 2 ^ 23 - 1)

theorem fUnits_ofNat {m : Nat} (h : m < 2 ^ 31) : fUnits (BitVec.ofNat 32 m) = magUnits m := by
  have hm : fMag (BitVec.ofNat 32 m) = m := by
    rw [fMag, BitVec.toNat_ofNat]
    omega
  unfold fUnits magUnits fExpField fFrac
  rw [hm]
  split
  · omega
  · rfl

/-- Encoding `k · 2^23 + q` has the value `q · 2^k`, where `q` is a significand of binade `k` or the first of the next. -/
theorem magUnits_grid {k q : Nat} (hq : q ≤ 2 ^ 24) (hk : k = 0 ∨ 2 ^ 23 ≤ q) :
    magUnits (k * 2 ^ 23 + q) = q * 2 ^ k := by
  unfold magUnits
  by_cases hlow : q < 2 ^ 23
  · obtain rfl : k = 0 := hk.resolve_right (Nat.not_le.mpr hlow)
    rw [if_pos (by omega)]
    omega
  · by_cases htop : q = 2 ^ 24
    · subst htop
      rw [if_neg (by omega), show (k * 2 ^ 23 + 2 ^ 24) / 2 ^ 23 - 1 = k + 1 by omega,
        show (k * 2 ^ 23 + 2 ^ 24) % 2 ^ 23 = 0 by omega, Nat.pow_succ]
      omega
    · rw [if_neg (by omega), show (k * 2 ^ 23 + q) / 2 ^ 23 - 1 = k by omega,
        show 2 ^ 23 + (k * 2 ^ 23 + q) % 2 ^ 23 = q by omega]

/-- Every encoding lies in a binade. -/
theorem exists_binade (m : Nat) : ∃ k q, m = k * 2 ^ 23 + q ∧ q < 2 ^ 24 ∧ (k = 0 ∨ 2 ^ 23 ≤ q) := by
  by_cases h : m < 2 ^ 23
  · exact ⟨0, m, by omega, by omega, .inl rfl⟩
  · exact ⟨m / 2 ^ 23 - 1, 2 ^ 23 + m % 2 ^ 23, by omega, by omega, .inr (by omega)⟩

/-- Encodings are in the order of their values. -/
theorem magUnits_strictMono : StrictMono magUnits := by
  refine strictMono_nat_of_lt_succ fun m => ?_
  obtain ⟨k, q, rfl, hq, hk⟩ := exists_binade m
  rw [Nat.add_assoc, magUnits_grid hq.le hk, magUnits_grid (by omega) (by omega)]
  exact Nat.mul_lt_mul_of_pos_right (Nat.lt_succ_self q) (Nat.two_pow_pos k)

/-! ### The neighbours of the rational -/

/-- The binade that `roundMag` takes for `n / d` holds it: its significand there has 24 bits, or the binade is the
lowest. -/
theorem significand_bounds (n d : Nat) :
    let k := (n / d).log2 - 23
    n / (d * 2 ^ k) < 2 ^ 24 ∧ (k = 0 ∨ 2 ^ 23 ≤ n / (d * 2 ^ k)) := by
  intro k
  rw [← Nat.div_div_eq_div_mul]
  by_cases hk : k = 0
  · have hlt : n / d < 2 ^ ((n / d).log2 + 1) := Nat.lt_log2_self
    have hle : 2 ^ ((n / d).log2 + 1) ≤ 2 ^ 24 := Nat.pow_le_pow_right (by omega) (by omega)
    rw [hk, Nat.pow_zero, Nat.div_one]
    exact ⟨by omega, .inl rfl⟩
  · have hl : (n / d).log2 = k + 23 := by omega
    have hne : n / d ≠ 0 := fun h0 => by rw [h0] at hl; simp at hl
    have hhi : n / d < 2 ^ 24 * 2 ^ k := by
      have := Nat.lt_log2_self (n := n / d)
      rwa [hl, show k + 23 + 1 = 24 + k by omega, Nat.pow_add] at this
    have hlo : 2 ^ 23 * 2 ^ k ≤ n / d := by
      have := Nat.log2_self_le hne
      rwa [hl, show k + 23 = 23 + k by omega, Nat.pow_add] at this
    exact ⟨(Nat.div_lt_iff_lt_mul (Nat.two_pow_pos k)).mpr hhi,
      .inr ((Nat.le_div_iff_mul_le (Nat.two_pow_pos k)).mpr hlo)⟩

/-- Below infinity, the result is the significand in binade `k`, rounded up past the midpoint, and at the midpoint if it is
odd. -/
theorem roundMag_of_finite {n d : Nat} (h : roundMag n d < 0x7F800000) :
    let k := (n / d).log2 - 23
    let w := d * 2 ^ k
    roundMag n d = k * 2 ^ 23 + n / w + if w < 2 * (n % w) then 1 else if 2 * (n % w) = w then n / w % 2 else 0 := by
  unfold roundMag at h ⊢
  exact min_eq_left (Nat.le_of_lt ((min_lt_iff.mp h).resolve_right (lt_irrefl _)))

/-- Where the result is no infinity, `roundMag` gives one of two neighbours around `n / d`: the upper one past the midpoint,
the lower one before it, and at the midpoint the even one. `w` is their distance and `r` that of `n / d` from the lower
one, both times `d`. -/
theorem roundMag_neighbours {n d : Nat} (hd : 0 < d) (h : roundMag n d < 0x7F800000) :
    ∃ e w r, d * magUnits e + r = n ∧ r < w ∧ d * magUnits (e + 1) = d * magUnits e + w
      ∧ roundMag n d = e + if w < 2 * r then 1 else if 2 * r = w then e % 2 else 0 := by
  obtain ⟨hm, hk⟩ := significand_bounds n d
  have hround := roundMag_of_finite h
  generalize (n / d).log2 - 23 = k at hm hk hround
  dsimp only at hround
  have hwpos : 0 < d * 2 ^ k := Nat.mul_pos hd (Nat.two_pow_pos k)
  have hlow : d * magUnits (k * 2 ^ 23 + n / (d * 2 ^ k)) = d * 2 ^ k * (n / (d * 2 ^ k)) := by
    rw [magUnits_grid hm.le hk, Nat.mul_comm (_ / _), Nat.mul_assoc]
  have hup : d * magUnits (k * 2 ^ 23 + n / (d * 2 ^ k) + 1) = d * 2 ^ k * (n / (d * 2 ^ k) + 1) := by
    rw [Nat.add_assoc, magUnits_grid hm (hk.imp_right Nat.le_succ_of_le), Nat.mul_comm (_ + 1), Nat.mul_assoc]
  have hpar : (k * 2 ^ 23 + n / (d * 2 ^ k)) % 2 = n / (d * 2 ^ k) % 2 := by omega
  refine ⟨k * 2 ^ 23 + n / (d * 2 ^ k), d * 2 ^ k, n % (d * 2 ^ k), ?_, Nat.mod_lt n hwpos, ?_, ?_⟩
  · rw [hlow, Nat.div_add_mod]
  · rw [hup, hlow, Nat.mul_succ]
  · rw [hpar]
    exact hround

/-! ### The nearest encoding -/

/-- Settles O53: an encoding is at or below the lower neighbour, or at or above the upper one, so none is nearer than the
neighbour taken. -/
theorem roundingIsNearest : Obligations.RoundingIsNearest := by
  intro n d hd h units off m hm
  obtain ⟨e, w, r, hn, hr, hw, hround⟩ := roundMag_neighbours hd h
  have hoff : ∀ q, q < 0x7F800000 → off q = ((n : Int) - (d * magUnits q : Nat)).natAbs := fun q hq => by
    simp only [off, units, fUnits_ofNat (show q < 2 ^ 31 by omega), Nat.cast_mul]
  rw [hoff _ hm, hoff _ h]
  have hmono := magUnits_strictMono.monotone
  have hside : d * magUnits m ≤ d * magUnits e ∨ d * magUnits (e + 1) ≤ d * magUnits m :=
    (Nat.lt_or_ge e m).symm.imp (fun hme => Nat.mul_le_mul_left d (hmono hme))
      fun hme => Nat.mul_le_mul_left d (hmono hme)
  have hinj : ∀ q, d * magUnits m = d * magUnits q → m = q := fun q hq =>
    magUnits_strictMono.injective (Nat.eq_of_mul_eq_mul_left hd hq)
  have hgiven : roundMag n d = e ∧ 2 * r ≤ w ∨ roundMag n d = e + 1 ∧ w ≤ 2 * r := by
    split at hround
    · omega
    · split at hround <;> omega
  have heven : 2 * r = w → roundMag n d % 2 = 0 := fun hmid => by
    rw [hround, if_neg (by omega), if_pos hmid]
    omega
  have hlow := hinj e
  have hup := hinj (e + 1)
  rcases hgiven with ⟨hg, _⟩ | ⟨hg, _⟩ <;> rw [hg] at heven ⊢ <;> omega

end Sys2Proof.Machine
end

section
/-! PROOFS. Ownership (R106, R112): the elements an accepted START records with what each depends on, those it keeps of
earlier jobs, and what a host store to an owned byte costs (O58). -/

namespace Sys2Proof.Machine

/-! ### Other readings of a command's fields -/

/-- The job with other element types, as a reserved type code may be read. -/
def JobCtx.retype (x : JobCtx) (st dt : ElemType) : JobCtx := { x with f := { x.f with st := st, dt := dt } }

/-- The job with another curve, alpha mode and equality rule, as reserved codes may be read. -/
def JobCtx.reread (x : JobCtx) (tf : Curve) (am : AlphaMode) (sp : EqSpace) : JobCtx :=
  { x with f := { x.f with tf := tf, am := am, sp := sp } }

theorem elemSize_inj {t u : ElemType} (h : elemSize t = elemSize u) : t = u := by
  revert h
  cases t <;> cases u <;> decide

/-- R152: what the elements of a command rest on. Those of a legal command lie in their pixels; the source elements are
sized by the source type, or rest on no type at all; and an alpha mode other than NONE only adds elements and
dependences. -/
structure JobOp.Traced (op : JobOp) : Prop where
  srcInPixel : ∀ x, op.legal x = true → op.alpha x = true → ∀ e ∈ op.srcElems x, e.inPixel = true
  dstInPixel : ∀ x, op.legal x = true → op.alpha x = true → ∀ e ∈ op.dstElems x, e.inPixel = true
  srcDstType : ∀ x t, op.srcElems (x.retype x.f.st t) = op.srcElems x ∧ op.dep (x.retype x.f.st t) = op.dep x
  srcType : (∀ x t u, op.srcElems (x.retype t u) = op.srcElems x ∧ op.dep (x.retype t u) = op.dep x)
    ∨ ∀ x, ∀ d ∈ op.srcElems x, d.buf.unit = elemSize x.f.st
  srcReread : ∀ x tf am sp, (am = x.f.am ∨ x.f.am = .none) → op.srcElems x <+: op.srcElems (x.reread tf am sp)
  dstReread : ∀ x tf am sp, (am = x.f.am ∨ x.f.am = .none) → op.dstElems x <+: op.dstElems (x.reread tf am sp)
  depReread : ∀ x tf am sp, (am = x.f.am ∨ x.f.am = .none) → ∀ k slot b, op.dep x k slot b = true →
    op.dep (x.reread tf am sp) k slot b = true

/-! ### The element lists of the templates -/

theorem wholeRef_inPixel {b : BufArg} (h : b.unit ≤ b.bpp) : (wholeRef b).inPixel = true :=
  decide_eq_true (by rw [show ((wholeRef b).chan + 1) * (wholeRef b).buf.unit = b.unit from Nat.one_mul _]; exact h)

theorem chanRef_inPixel {b : BufArg} {n k : Nat} (hb : b.bpp = n * b.unit) (hk : k < n) : (chanRef b k).inPixel = true :=
  decide_eq_true (show (k + 1) * b.unit ≤ b.bpp by rw [hb]; exact Nat.mul_le_mul_right _ hk)

theorem rOff_lt (l : Layout) : rOff l < nch l := by cases l <;> decide
theorem gOff_lt (l : Layout) : gOff l < nch l := by cases l <;> decide
theorem bOff_lt (l : Layout) : bOff l < nch l := by cases l <;> decide
theorem aOff_lt {l : Layout} (h : hasAlpha l = true) : aOff l < nch l := by
  revert h
  cases l <;> decide

/-- The named channels lie in the pixel, where a layout with no alpha has none named. -/
theorem namedChannels_inPixel {b : BufArg} {l : Layout} (hb : b.bpp = nch l * b.unit) {p : Prop} [Decidable p]
    (ha : p → hasAlpha l = true) :
    ∀ e ∈ [chanRef b (rOff l), chanRef b (gOff l), chanRef b (bOff l)] ++ (if p then [chanRef b (aOff l)] else []),
      e.inPixel = true := by
  intro e he
  rcases List.mem_append.mp he with he | he
  · simp only [List.mem_cons, List.not_mem_nil, or_false] at he
    rcases he with rfl | rfl | rfl
    · exact chanRef_inPixel hb (rOff_lt l)
    · exact chanRef_inPixel hb (gOff_lt l)
    · exact chanRef_inPixel hb (bOff_lt l)
  · split at he
    · next h =>
      rw [List.mem_singleton.mp he]
      exact chanRef_inPixel hb (aOff_lt (ha h))
    · cases he

theorem polDsts_inPixel {x : JobCtx} (ha : x.f.am ≠ .none → hasAlpha x.f.dl = true) :
    ∀ e ∈ polDsts x, e.inPixel = true := by
  have h := namedChannels_inPixel (b := pixD x) (l := x.f.dl) rfl ha
  rwa [ite_not] at h

theorem channels_inPixel {b : BufArg} {l : Layout} (hb : b.bpp = nch l * b.unit) :
    ∀ e ∈ channels b l, e.inPixel = true := by
  intro e he
  obtain ⟨k, hk, rfl⟩ := List.mem_map.mp he
  exact chanRef_inPixel hb (List.mem_range.mp hk)

/-- An element that only a mode other than NONE adds comes last. -/
theorem prefix_ite {l a : List ElemRef} {p p' : Prop} [Decidable p] [Decidable p'] (h : p → p') :
    l ++ (if p then a else []) <+: l ++ (if p' then a else []) := by
  by_cases hp : p
  · rw [if_pos hp, if_pos (h hp)]
  · rw [if_neg hp, List.append_nil]
    exact List.prefix_append _ _

theorem pass_of_reread {am am' : AlphaMode} (h : am' = am ∨ am = .none) (hp : am = .pass) : am' = .pass := by
  rcases h with rfl | rfl
  · exact hp
  · cases hp

theorem polDsts_reread (x : JobCtx) (tf : Curve) (am : AlphaMode) (sp : EqSpace) (h : am = x.f.am ∨ x.f.am = .none) :
    polDsts x <+: polDsts (x.reread tf am sp) := by
  have hp := prefix_ite (l := [chanRef (pixD x) (rOff x.f.dl), chanRef (pixD x) (gOff x.f.dl),
    chanRef (pixD x) (bOff x.f.dl)]) (a := [chanRef (pixD x) (aOff x.f.dl)]) (p := x.f.am ≠ .none) (p' := am ≠ .none)
    fun hn => by rcases h with rfl | h <;> trivial
  rwa [ite_not, ite_not] at hp

theorem namedSrcs_buf {b : BufArg} {x : JobCtx} : ∀ d ∈ namedSrcs b x, d.buf = b := by
  intro d hd
  rcases List.mem_append.mp hd with hd | hd
  · simp only [List.mem_cons, List.not_mem_nil, or_false] at hd
    rcases hd with rfl | rfl | rfl <;> rfl
  · split at hd
    · rw [List.mem_singleton.mp hd]; rfl
    · cases hd

/-! ### Every command of the table -/

theorem polAlpha_pass {x : JobCtx} (h : polAlpha x = true) (hp : x.f.am = .pass) : hasAlpha x.f.sl = true := by
  unfold polAlpha at h
  rw [hp] at h
  exact (Bool.and_eq_true_iff.mp h).1

theorem polAlpha_dst {x : JobCtx} (h : polAlpha x = true) (hp : x.f.am ≠ .none) : hasAlpha x.f.dl = true := by
  unfold polAlpha at h
  cases hm : x.f.am with
  | none => exact absurd hm hp
  | pass => rw [hm] at h; exact (Bool.and_eq_true_iff.mp h).2
  | const => rw [hm] at h; exact h

/-- The colour templates: interleaved pixels on both sides, dependences that rest on slots alone. -/
theorem traced_pol {op : JobOp} (ha : op.alpha = polAlpha) (hs : op.srcElems = polSrcs) (hd : op.dstElems = polDsts)
    (hdep : ∀ x z, op.dep x = op.dep z) : op.Traced where
  srcInPixel x _ h := by
    rw [ha] at h
    rw [hs]
    exact namedChannels_inPixel rfl (polAlpha_pass h)
  dstInPixel x _ h := by
    rw [ha] at h
    rw [hd]
    exact polDsts_inPixel (polAlpha_dst h)
  srcDstType x t := ⟨by rw [hs]; rfl, hdep _ _⟩
  srcType := .inr fun x d h => by
    rw [hs] at h
    rw [namedSrcs_buf d h]
    rfl
  srcReread x tf am sp h := by rw [hs]; exact prefix_ite (pass_of_reread h)
  dstReread x tf am sp h := by rw [hd]; exact polDsts_reread x tf am sp h
  depReread x tf am sp _ k slot b h := by rw [hdep _ x]; exact h

theorem traced_compare (dt : ElemType) (spaces : EqSpace → Bool) (g : JobCtx → Tri → Tri → Word) :
    (compareOp dt spaces g).Traced where
  srcInPixel x _ _ e he := by
    rcases List.mem_append.mp he with he | he <;> obtain ⟨k, hk, rfl⟩ := List.mem_map.mp he <;>
      refine chanRef_inPixel rfl (lt_of_lt_of_le (List.mem_range.mp hk) ?_) <;> cases x.f.sl <;> decide
  dstInPixel x _ _ e he := by
    rw [List.mem_singleton.mp he]
    exact wholeRef_inPixel (Nat.le_refl _)
  srcDstType _ _ := ⟨rfl, rfl⟩
  srcType := .inl fun _ _ _ => ⟨rfl, rfl⟩
  srcReread _ _ _ _ _ := List.prefix_rfl
  dstReread _ _ _ _ _ := List.prefix_rfl
  depReread _ _ _ _ _ _ _ _ h := h

theorem traced_expand : expandOp.Traced where
  srcInPixel x _ _ e he := by
    rcases List.mem_append.mp he with he | he
    · exact channels_inPixel rfl e he
    · split at he
      · rw [List.mem_singleton.mp he]
        exact wholeRef_inPixel (b := insertedS2 x) (Nat.le_refl _)
      · cases he
  dstInPixel x _ _ := channels_inPixel rfl
  srcDstType _ _ := ⟨rfl, rfl⟩
  srcType := .inr fun x d hd => by
    rcases List.mem_append.mp hd with hd | hd
    · obtain ⟨k, -, rfl⟩ := List.mem_map.mp hd; rfl
    · split at hd
      · rw [List.mem_singleton.mp hd]; rfl
      · cases hd
  srcReread _ _ _ _ h := prefix_ite (pass_of_reread h)
  dstReread _ _ _ _ _ := List.prefix_rfl
  depReread _ _ _ _ _ _ _ _ h := h

/-- R403: the layout with alpha has one channel more. -/
theorem nch_withAlpha {l m : Layout} (h : withAlpha l = some m) : nch m = nch l + 1 := by
  cases l <;> cases h <;> rfl

theorem traced_strip : stripOp.Traced where
  srcInPixel x hl _ e he := by
    obtain ⟨k, hk, rfl⟩ := List.mem_map.mp he
    simp only [stripOp, Bool.and_eq_true, decide_eq_true_eq] at hl
    obtain ⟨⟨hal, -⟩, -⟩ := hl
    have hn := nch_withAlpha hal
    have hk := List.mem_range.mp hk
    refine chanRef_inPixel rfl ?_
    unfold stripChan
    split <;> omega
  dstInPixel x _ _ := channels_inPixel rfl
  srcDstType _ _ := ⟨rfl, rfl⟩
  srcType := .inr fun x d hd => by obtain ⟨k, -, rfl⟩ := List.mem_map.mp hd; rfl
  srcReread _ _ _ _ _ := List.prefix_rfl
  dstReread _ _ _ _ _ := List.prefix_rfl
  depReread _ _ _ _ _ _ _ _ h := h

theorem traced_deinterleave : deinterleaveOp.Traced where
  srcInPixel x _ _ := channels_inPixel rfl
  dstInPixel x _ _ e he := by
    obtain ⟨k, -, rfl⟩ := List.mem_map.mp he
    exact wholeRef_inPixel (b := planeD x k) (Nat.le_refl _)
  srcDstType _ _ := ⟨rfl, rfl⟩
  srcType := .inr fun x d hd => by obtain ⟨k, -, rfl⟩ := List.mem_map.mp hd; rfl
  srcReread _ _ _ _ _ := List.prefix_rfl
  dstReread _ _ _ _ _ := List.prefix_rfl
  depReread _ _ _ _ _ _ _ _ h := h

theorem traced_interleave : interleaveOp.Traced where
  srcInPixel x _ _ e he := by
    obtain ⟨k, -, rfl⟩ := List.mem_map.mp he
    exact wholeRef_inPixel (b := planeS x k) (Nat.le_refl _)
  dstInPixel x _ _ := channels_inPixel rfl
  srcDstType _ _ := ⟨rfl, rfl⟩
  srcType := .inr fun x d hd => by obtain ⟨k, -, rfl⟩ := List.mem_map.mp hd; rfl
  srcReread _ _ _ _ _ := List.prefix_rfl
  dstReread _ _ _ _ _ := List.prefix_rfl
  depReread _ _ _ _ _ _ _ _ h := h

theorem traced_pack565 : pack565Op.Traced where
  srcInPixel x _ ha := by
    have hm : x.f.am = .none := of_decide_eq_true ha
    exact namedChannels_inPixel (Nat.mul_one _).symm fun hp => by rw [hm] at hp; cases hp
  dstInPixel x _ _ e he := by
    rw [List.mem_singleton.mp he]
    exact wholeRef_inPixel (Nat.le_refl _)
  srcDstType _ _ := ⟨rfl, rfl⟩
  srcType := .inl fun _ _ _ => ⟨rfl, rfl⟩
  srcReread _ _ _ _ h := prefix_ite (pass_of_reread h)
  dstReread _ _ _ _ _ := List.prefix_rfl
  depReread _ _ _ _ _ _ _ _ h := h

theorem traced_unpack565 (types : ElemType → Bool) (colours : ElemType → Word → List Word) :
    (unpack565Op types colours).Traced where
  srcInPixel x _ _ e he := by
    rw [List.mem_singleton.mp he]
    exact wholeRef_inPixel (Nat.le_refl _)
  dstInPixel x _ ha := by
    have hm : x.f.am = if hasAlpha x.f.dl then .const else .none := of_decide_eq_true ha
    refine polDsts_inPixel fun hn => ?_
    cases h : hasAlpha x.f.dl
    · rw [h] at hm; exact absurd hm hn
    · rfl
  srcDstType _ _ := ⟨rfl, rfl⟩
  srcType := .inl fun _ _ _ => ⟨rfl, rfl⟩
  srcReread _ _ _ _ _ := List.prefix_rfl
  dstReread := polDsts_reread
  depReread _ _ _ _ _ _ _ _ h := h

theorem traced_pack1010102 : pack1010102Op.Traced where
  srcInPixel x _ ha := by
    refine namedChannels_inPixel rfl fun hp => ?_
    have ha : (decide (x.f.am = .const) || (decide (x.f.am = .pass) && hasAlpha x.f.sl)) = true := ha
    rw [hp] at ha
    exact ha
  dstInPixel x _ _ e he := by
    rw [List.mem_singleton.mp he]
    exact wholeRef_inPixel (Nat.le_refl _)
  srcDstType _ _ := ⟨rfl, rfl⟩
  srcType := .inr fun x d h => by rw [namedSrcs_buf d h]; rfl
  srcReread _ _ _ _ h := prefix_ite (pass_of_reread h)
  dstReread _ _ _ _ _ := List.prefix_rfl
  depReread _ _ _ _ _ _ _ _ h := h

theorem traced_unpack1010102 (types : ElemType → Bool) (colour alpha : ElemType → Word → Word) :
    (unpack1010102Op types colour alpha).Traced where
  srcInPixel x _ _ e he := by
    rw [List.mem_singleton.mp he]
    exact wholeRef_inPixel (Nat.le_refl _)
  dstInPixel x _ ha := by
    refine polDsts_inPixel fun hn => ?_
    have ha : (decide (x.f.am = .none) != hasAlpha x.f.dl) = true := ha
    rw [decide_eq_false hn] at ha
    cases h : hasAlpha x.f.dl
    · rw [h] at ha; cases ha
    · rfl
  srcDstType _ _ := ⟨rfl, rfl⟩
  srcType := .inl fun _ _ _ => ⟨rfl, rfl⟩
  srcReread _ _ _ _ _ := List.prefix_rfl
  dstReread := polDsts_reread
  depReread x tf am sp hm k slot b h := by
    obtain ⟨hs, hk⟩ := Bool.and_eq_true_iff.mp h
    refine Bool.and_eq_true_iff.mpr ⟨hs, ?_⟩
    match k, hk with
    | 0, hk => exact hk
    | 1, hk => exact hk
    | 2, hk => exact hk
    | _ + 3, hk =>
      obtain ⟨hp, hb⟩ := Bool.and_eq_true_iff.mp hk
      exact Bool.and_eq_true_iff.mpr ⟨decide_eq_true (pass_of_reread hm (of_decide_eq_true hp)), hb⟩

/-- Every command of the table, by its template. -/
theorem traced_of_jobOf {i : Instr} {op : JobOp} {c : Cmd} (h : jobOf i = some (op, c)) : op.Traced := by
  cases i <;> cases h
  case expand => exact traced_expand
  case strip => exact traced_strip
  case deinterleave => exact traced_deinterleave
  case interleave => exact traced_interleave
  case pack565 => exact traced_pack565
  case unpack565Shifted => exact traced_unpack565 _ _
  case unpack565Scaled => exact traced_unpack565 _ _
  case pack1010102 => exact traced_pack1010102
  case unpack1010102Shifted => exact traced_unpack1010102 _ _ _
  case unpack1010102Scaled => exact traced_unpack1010102 _ _ _
  case distEuclid => exact traced_compare _ _ _
  case distTaxicab => exact traced_compare _ _ _
  case cmpEq => exact traced_compare _ _ _
  all_goals exact traced_pol rfl rfl rfl fun _ _ => rfl

end Sys2Proof.Machine
end

section
/-! PROOFS. Ownership, continued: the record of an accepted START and what host stores cost (O58). -/

namespace Sys2Proof.Machine

/-! ### The elements of a job -/

theorem mem_rowMajor {α : Type} {x : JobCtx} {g : Nat → Nat → α} {v : α} :
    v ∈ rowMajor x g ↔ ∃ q y, q < x.args.width.toNat ∧ y < x.args.height.toNat ∧ g q y = v := by
  simp only [rowMajor, List.mem_flatMap, List.mem_map, List.mem_range]
  exact ⟨fun ⟨y, hy, q, hq, h⟩ => ⟨q, y, hq, hy, h⟩, fun ⟨q, y, hq, hy, h⟩ => ⟨y, hy, q, hq, h⟩⟩

/-- R112 (a): the source bytes that a result element depends on. -/
theorem mem_depBytes {op : JobOp} {x : JobCtx} {q y k a : Nat} :
    a ∈ depBytes op x q y k ↔ ∃ slot d byte, (op.srcElems x)[slot]? = some d ∧ d.inPixel = true ∧ byte < d.buf.unit
      ∧ op.dep x k slot byte = true ∧ d.addr q y + byte = a := by
  simp only [depBytes, List.mem_flatMap, List.mem_filter, List.mem_map, List.mem_range, Prod.exists,
    List.mem_zipIdx_iff_getElem?]
  constructor
  · rintro ⟨d, slot, ⟨hd, hp⟩, byte, ⟨hb, hdep⟩, rfl⟩
    exact ⟨slot, d, byte, hd, hp, hb, hdep, rfl⟩
  · rintro ⟨slot, d, byte, hd, hp, hb, hdep, rfl⟩
    exact ⟨d, slot, ⟨hd, hp⟩, byte, ⟨hb, hdep⟩, rfl⟩

/-- R112: the destination elements of one pixel. -/
theorem mem_pixelPlan {op : JobOp} {x : JobCtx} {q y : Nat} {p : ElemPlan} :
    p ∈ pixelPlan op x q y ↔ ∃ k e, (op.dstElems x)[k]? = some e ∧ e.inPixel = true
      ∧ ⟨e.access q y, depBytes op x q y k, []⟩ = p := by
  simp only [pixelPlan, List.mem_map, List.mem_filter, Prod.exists, List.mem_zipIdx_iff_getElem?]
  exact ⟨fun ⟨e, k, ⟨he, hp⟩, h⟩ => ⟨k, e, he, hp, h⟩, fun ⟨k, e, he, hp, h⟩ => ⟨e, k, ⟨he, hp⟩, h⟩⟩

/-! ### The job that has footprints (R106) -/

/-- The latched registers `a` ask for a buffer job with pixels, of command `op` with the fields `c`; reserved bits and
codes, which a START check refuses, are let through. -/
structure Footprinted (cfg : Config) (a : Regs) (op : JobOp) (c : Cmd) : Prop where
  command : ∃ i, decode (clearReserved a.cmd) = .ok i ∧ jobOf i = some (op, c) ∧ opcodePresent cfg i = true
  buffer : c.imm = false
  width : a.width ≠ 0#32
  height : a.height ≠ 0#32

theorem readings_ne_nil (c : Cmd) : readings c ≠ [] := by
  have h : ∀ k : TypeCode, ∃ t, t ∈ typeReadings k := fun k => by
    cases k with
    | elem t => exact ⟨t, List.mem_singleton.mpr rfl⟩
    | reserved => exact ⟨.u8, List.mem_cons_self⟩
  obtain ⟨st, hst⟩ := h c.srcType
  obtain ⟨dt, hdt⟩ := h c.dstType
  exact List.ne_nil_of_mem (List.mem_flatMap.mpr ⟨st, hst, List.mem_map.mpr ⟨dt, hdt, rfl⟩⟩)

/-- A reading takes a reserved AMODE code as NONE. -/
theorem am_of_mem_readings {c : Cmd} {f : Fields} (h : f ∈ readings c) : f.am = amodeReading c.amode := by
  simp only [readings, List.mem_flatMap, List.mem_map] at h
  obtain ⟨t, -, u, -, rfl⟩ := h
  rfl

section
variable {cfg : Config} {a : Regs} {op : JobOp} {c : Cmd} (hfp : Footprinted cfg a op c)
include hfp

theorem footprintJob_eq : ∃ f rest, readings c = f :: rest
    ∧ footprintJob cfg a = some (op, ⟨cfg, a, f⟩, rest.map fun g => ⟨cfg, a, g⟩) := by
  obtain ⟨⟨i, hdec, hjob, hpres⟩, himm, hw, hh⟩ := hfp
  cases hr : readings c with
  | nil => exact absurd hr (readings_ne_nil c)
  | cons f rest =>
    have hf := reads_of_mem_readings (hr ▸ List.mem_cons_self : f ∈ readings c)
    have hadd : addressed ⟨cfg, a, f⟩ = true := by simp [addressed, hf.imm, himm, hw, hh]
    exact ⟨f, rest, rfl, by simp only [footprintJob, hdec, hjob, hr, hpres, hadd, Bool.and_self, if_true]⟩

/-- R112: a job's elements are those of its pixels that every reading gives alike. -/
theorem mem_jobPlan {p : ElemPlan} : p ∈ jobPlan cfg a ↔ ∃ q y, q < a.width.toNat ∧ y < a.height.toNat
    ∧ ∀ f ∈ readings c, p ∈ pixelPlan op ⟨cfg, a, f⟩ q y := by
  obtain ⟨f, rest, hr, hjob⟩ := footprintJob_eq hfp
  simp only [jobPlan, hjob, List.mem_flatten, mem_rowMajor, hr, List.forall_mem_cons]
  constructor
  · rintro ⟨_, ⟨q, y, hq, hy, rfl⟩, hp⟩
    obtain ⟨hx, hz⟩ := List.mem_filter.mp hp
    rw [List.all_map, List.all_eq_true] at hz
    exact ⟨q, y, hq, hy, hx, fun g hg => of_decide_eq_true (hz g hg)⟩
  · rintro ⟨q, y, hq, hy, hx, hz⟩
    refine ⟨_, ⟨q, y, hq, hy, rfl⟩, List.mem_filter.mpr ⟨hx, ?_⟩⟩
    rw [List.all_map, List.all_eq_true]
    exact fun g hg => decide_eq_true (hz g hg)

end

/-- Two readings of one command differ in the element types alone. -/
theorem reading_retype {c : Cmd} {f g : Fields} (hf : f ∈ readings c) (hg : g ∈ readings c) (cfg : Config) (a : Regs) :
    (⟨cfg, a, g⟩ : JobCtx) = JobCtx.retype ⟨cfg, a, f⟩ g.st g.dt := by
  simp only [readings, List.mem_flatMap, List.mem_map] at hf hg
  obtain ⟨t, -, u, -, rfl⟩ := hf
  obtain ⟨t', -, u', -, rfl⟩ := hg
  rfl

/-- Where two readings share a source element, a result element depends on the same bytes under both: the readings differ
in types that no source element rests on, or in none that one does. -/
theorem depBytes_reading {op : JobOp} (ht : op.Traced) {c : Cmd} {f g : Fields} (hf : f ∈ readings c)
    (hg : g ∈ readings c) {cfg : Config} {a : Regs} {d : ElemRef} (hdf : d ∈ op.srcElems ⟨cfg, a, f⟩)
    (hdg : d ∈ op.srcElems ⟨cfg, a, g⟩) (q y k : Nat) :
    depBytes op ⟨cfg, a, g⟩ q y k = depBytes op ⟨cfg, a, f⟩ q y k := by
  have hsame : op.srcElems ⟨cfg, a, g⟩ = op.srcElems ⟨cfg, a, f⟩ ∧ op.dep ⟨cfg, a, g⟩ = op.dep ⟨cfg, a, f⟩ := by
    rcases ht.srcType with h | h
    · rw [reading_retype hf hg]
      exact h _ _ _
    · have hst : g.st = f.st := elemSize_inj ((h _ d hdg).symm.trans (h _ d hdf))
      rw [reading_retype hf hg, hst]
      exact ht.srcDstType ⟨cfg, a, f⟩ g.dt
  rw [depBytes, depBytes, hsame.1, hsame.2]

/-- A field choice that agrees with every defined code is a reading but for the curve, the alpha mode and the equality
rule; of these, a reading has NONE where the AMODE code is reserved. -/
theorem reads_reread {c : Cmd} {f : Fields} (hf : Reads c f) (cfg : Config) (a : Regs) : ∃ g ∈ readings c,
    (f.am = g.am ∨ g.am = .none) ∧ (⟨cfg, a, f⟩ : JobCtx) = JobCtx.reread ⟨cfg, a, g⟩ f.tf f.am f.sp := by
  obtain ⟨g, hg, hsl, hdl, hst, hdt, himm, hpos⟩ := mem_readings_types hf
  refine ⟨g, hg, ?_, ?_⟩
  · rw [am_of_mem_readings hg]
    cases hm : c.amode with
    | mode m => exact .inl (hf.amode m hm)
    | reserved => exact .inr rfl
  · obtain ⟨sl, st, dl, dt, tf, am, imm, pos, sp⟩ := f
    dsimp only at hsl hdl hst hdt himm hpos
    subst hsl hdl hst hdt himm hpos
    rfl

/-! ### What an accepted START records (R112) -/

theorem State.start_eq_accept {s : State} (hj : s.job = none) (he : s.err = none) : s.start = s.accept := by
  simp [State.start, State.busy, State.errBit, hj, he]

/-- The new job's elements, as the state after an accepted START records them. -/
theorem mem_start_plan {s : State} (hj : s.job = none) (he : s.err = none) {p : ElemPlan} :
    p ∈ s.start.env.plan ↔ ∃ p₀ ∈ jobPlan s.cfg s.regs, ElemPlan.chain s.env.earlier p₀ = p := by
  rw [State.start_eq_accept hj he, State.accept_plan, State.newPlan, List.mem_map]

/-- An element of a pixel that every reading gives alike is recorded, with its own dependences. -/
theorem exists_start_plan {s : State} (hj : s.job = none) (he : s.err = none) {op : JobOp} {c : Cmd}
    (hfp : Footprinted s.cfg s.regs op c) {q y : Nat} (hq : q < s.regs.width.toNat) (hy : y < s.regs.height.toNat)
    {p : ElemPlan} (hp : ∀ f ∈ readings c, p ∈ pixelPlan op ⟨s.cfg, s.regs, f⟩ q y) :
    ∃ p' ∈ s.start.env.plan, p'.dst = p.dst ∧ p'.deps = p.deps :=
  ⟨_, (mem_start_plan hj he).mpr ⟨p, (mem_jobPlan hfp).mpr ⟨q, y, hq, hy, hp⟩, rfl⟩, rfl, rfl⟩

/-- R112 (a): every dependence of a legal command is recorded. -/
theorem start_records_legal {s : State} (hj : s.job = none) (he : s.err = none) {op : JobOp} {c : Cmd}
    (ht : op.Traced) (hfp : Footprinted s.cfg s.regs op c) {f : Fields} (hf : resolve c = some f) :
    let x : JobCtx := ⟨s.cfg, s.regs, f⟩
    op.legal x = true → op.alpha x = true → ∀ q y k slot byte e d, q < s.regs.width.toNat → y < s.regs.height.toNat →
      (op.dstElems x)[k]? = some e → (op.srcElems x)[slot]? = some d → byte < d.buf.unit →
      op.dep x k slot byte = true → ∃ p ∈ s.start.env.plan, p.dst = e.access q y ∧ d.addr q y + byte ∈ p.deps := by
  intro x hl ha q y k slot byte e d hq hy hke hsd hb hdep
  have hp : ∀ g ∈ readings c, (⟨e.access q y, depBytes op x q y k, []⟩ : ElemPlan)
      ∈ pixelPlan op ⟨s.cfg, s.regs, g⟩ q y := by
    rw [readings_of_resolve hf, List.forall_mem_singleton]
    exact mem_pixelPlan.mpr ⟨k, e, hke, ht.dstInPixel x hl ha e (List.mem_of_getElem? hke), rfl⟩
  obtain ⟨p, hmem, hdst, hdeps⟩ := exists_start_plan hj he hfp hq hy hp
  refine ⟨p, hmem, hdst, ?_⟩
  rw [hdeps]
  exact mem_depBytes.mpr
    ⟨slot, d, byte, hsd, ht.srcInPixel x hl ha d (List.mem_of_getElem? hsd), hb, hdep, rfl⟩

/-- R112 (a), R152: so is one of a command with reserved bits or codes, where every reading gives it. -/
theorem start_records_reserved {s : State} (hj : s.job = none) (he : s.err = none) {op : JobOp} {c : Cmd}
    (ht : op.Traced) (hfp : Footprinted s.cfg s.regs op c) {q y k slot byte : Nat} {e d : ElemRef}
    (hq : q < s.regs.width.toNat) (hy : y < s.regs.height.toNat) (hep : e.inPixel = true) (hdp : d.inPixel = true)
    (hb : byte < d.buf.unit)
    (hall : ∀ f, Reads c f → (op.dstElems ⟨s.cfg, s.regs, f⟩)[k]? = some e
      ∧ (op.srcElems ⟨s.cfg, s.regs, f⟩)[slot]? = some d ∧ op.dep ⟨s.cfg, s.regs, f⟩ k slot byte = true) :
    ∃ p ∈ s.start.env.plan, p.dst = e.access q y ∧ d.addr q y + byte ∈ p.deps := by
  obtain ⟨f, hf⟩ := List.exists_mem_of_ne_nil _ (readings_ne_nil c)
  obtain ⟨-, hsd, hdep⟩ := hall f (reads_of_mem_readings hf)
  have hp : ∀ g ∈ readings c, (⟨e.access q y, depBytes op ⟨s.cfg, s.regs, f⟩ q y k, []⟩ : ElemPlan)
      ∈ pixelPlan op ⟨s.cfg, s.regs, g⟩ q y := fun g hg => by
    obtain ⟨hke, hsd', -⟩ := hall g (reads_of_mem_readings hg)
    rw [← depBytes_reading ht hf hg (List.mem_of_getElem? hsd) (List.mem_of_getElem? hsd')]
    exact mem_pixelPlan.mpr ⟨k, e, hke, hep, rfl⟩
  obtain ⟨p, hmem, hdst, hdeps⟩ := exists_start_plan hj he hfp hq hy hp
  refine ⟨p, hmem, hdst, ?_⟩
  rw [hdeps]
  exact mem_depBytes.mpr ⟨slot, d, byte, hsd, hdp, hb, hdep, rfl⟩

theorem getElem?_of_prefix {α : Type} {l m : List α} (h : l <+: m) {k : Nat} {v : α} (hk : l[k]? = some v) :
    m[k]? = some v := by
  obtain ⟨t, rfl⟩ := h
  rw [List.getElem?_append_left (List.getElem?_eq_some_iff.mp hk).1, hk]

/-- No other element and no other dependence is recorded: what the reading with the fewest gives, every field choice
gives. -/
theorem start_records_only {s : State} (hj : s.job = none) (he : s.err = none) {op : JobOp} {c : Cmd}
    (ht : op.Traced) (hfp : Footprinted s.cfg s.regs op c) {p : ElemPlan} (hp : p ∈ s.start.env.plan) {f : Fields}
    (hf : Reads c f) :
    let x : JobCtx := ⟨s.cfg, s.regs, f⟩
    ∃ q y k e, q < s.regs.width.toNat ∧ y < s.regs.height.toNat ∧ (op.dstElems x)[k]? = some e ∧ p.dst = e.access q y
      ∧ ∀ a ∈ p.deps, ∃ slot d byte, (op.srcElems x)[slot]? = some d ∧ byte < d.buf.unit
        ∧ op.dep x k slot byte = true ∧ a = d.addr q y + byte := by
  obtain ⟨p₀, hp₀, rfl⟩ := (mem_start_plan hj he).mp hp
  obtain ⟨q, y, hq, hy, hall⟩ := (mem_jobPlan hfp).mp hp₀
  obtain ⟨g, hg, ham, hx⟩ := reads_reread hf s.cfg s.regs
  obtain ⟨k, e, hke, -, rfl⟩ := mem_pixelPlan.mp (hall g hg)
  dsimp only
  rw [hx]
  refine ⟨q, y, k, e, hq, hy, getElem?_of_prefix (ht.dstReread ⟨s.cfg, s.regs, g⟩ _ _ _ ham) hke, rfl, fun a ha => ?_⟩
  obtain ⟨slot, d, byte, hsd, -, hb, hdep, rfl⟩ := mem_depBytes.mp ha
  exact ⟨slot, d, byte, getElem?_of_prefix (ht.srcReread ⟨s.cfg, s.regs, g⟩ _ _ _ ham) hsd, hb,
    ht.depReread ⟨s.cfg, s.regs, g⟩ _ _ _ ham k slot byte hdep, rfl⟩

/-! ### The elements of earlier jobs -/

theorem mem_bytewise {p r : ElemPlan} : r ∈ p.bytewise ↔
    r.deps = p.deps ∧ r.via = p.via ∧ r.dst.size = 1 ∧ p.dst.covers r.dst.addr = true := by
  simp only [ElemPlan.bytewise, List.mem_map, Access.mem_bytes]
  constructor
  · rintro ⟨a, ha, rfl⟩
    exact ⟨rfl, rfl, rfl, ha⟩
  · rintro ⟨hdeps, hvia, hsize, hcov⟩
    obtain ⟨⟨addr, size⟩, deps, via⟩ := r
    dsimp only at hdeps hvia hsize hcov
    subst hdeps hvia hsize
    exact ⟨addr, hcov, rfl⟩

/-- What an accepted START keeps of the jobs whose end the host has not seen (log entry 19). -/
theorem mem_start_past {s : State} (hj : s.job = none) (he : s.err = none) {r : ElemPlan} :
    r ∈ s.start.env.past ↔ s.env.owning = true ∧ (r ∈ s.env.past ∨ ∃ p ∈ s.env.plan,
      r.deps = p.deps ∧ r.via = p.via ∧ r.dst.size = 1 ∧ p.dst.covers r.dst.addr = true) := by
  rw [State.start_eq_accept hj he, State.accept_past, Env.earlier]
  cases s.env.owning
  · simp
  · simp only [if_true, List.mem_append, List.mem_flatMap, mem_bytewise, true_and]
    exact or_comm

/-- An element that reads what an earlier job wrote depends on what that depends on. -/
theorem mem_start_via {s : State} (hj : s.job = none) (he : s.err = none) {p : ElemPlan} (hp : p ∈ s.start.env.plan)
    {a : Nat} : a ∈ p.via ↔
      ∃ r ∈ s.start.env.past, (∃ d ∈ p.deps, r.dst.covers d = true) ∧ (a ∈ r.deps ∨ a ∈ r.via) := by
  obtain ⟨p₀, -, rfl⟩ := (mem_start_plan hj he).mp hp
  rw [State.start_eq_accept hj he, State.accept_past]
  simp only [ElemPlan.chain, List.mem_flatMap, List.mem_filter, List.any_eq_true, List.mem_append, and_assoc]

theorem mem_storeElem_past {u : State} {w : Store} {r : ElemPlan} :
    r ∈ (u.storeElem w).env.past ↔ r ∈ u.env.past ∧ w.access.covers r.dst.addr = false := by
  rw [State.storeElem_env, List.mem_filter, Bool.not_eq_true']

/-! ### What a host store costs -/

/-- Drawing a list of bytes after a store to `a`: the listed ones are free bytes drawn now, the others stay but for `a`. -/
theorem drawBytes_after_store {s t : State} {a : Nat} {v : Byte} {l : List Nat} (hwf : s.mem.wf = true)
    (hm : t.mem = s.mem.setByte a v) (hd : t.env.draws = s.env.draws) (b : Nat) :
    (b ∈ l → ∃ n, s.env.draws ≤ n ∧ n < (t.drawBytes l).env.draws ∧ (t.drawBytes l).mem.byte b = Config.freeByte n)
      ∧ (b ∉ l → (t.drawBytes l).mem.byte b = if b = a then v else s.mem.byte b) := by
  obtain ⟨m, heq, hout, hin⟩ := State.drawBytes_spec l t
  rw [heq]
  dsimp only
  refine ⟨fun hb => ?_, fun hb => ?_⟩
  · rw [← hd]
    exact hin (hm ▸ Memory.wf_setByte hwf a v) b hb
  · rw [hout b hb, hm]
    split
    · next h => rw [h, Memory.byte_setByte_same hwf]
    · next h => exact Memory.byte_setByte_other _ _ h

/-- A store while an owning job runs: the bytes of ended jobs are settled at once, those of the running one marked. -/
theorem State.hostStore_running {s : State} (ho : s.env.owning = true) (hj : s.job ≠ none) (a : Nat) (v : Byte) :
    s.hostStore a v = State.drawBytes
      { s.putByte a v with env := { (s.putByte a v).env with doomed := s.lastCost a ++ s.env.doomed } } (s.pastCost a) := by
  have hb : s.busy = true := Option.isSome_iff_ne_none.mpr hj
  simp only [State.hostStore, ho, hb, Bool.not_true, Bool.false_eq_true, if_false, if_true]

/-- A store after the last job's end, before the host has seen it: all is settled at once. -/
theorem State.hostStore_ended {s : State} (ho : s.env.owning = true) (hj : s.job = none) (a : Nat) (v : Byte) :
    s.hostStore a v = (s.putByte a v).drawBytes (s.lastCost a ++ s.pastCost a) := by
  have hb : s.busy = false := by rw [State.busy, hj]; rfl
  simp only [State.hostStore, ho, hb, Bool.not_true, Bool.false_eq_true, if_false]

theorem State.mem_lastCost {s : State} {a b : Nat} : b ∈ s.lastCost a ↔ StoreRaces s.cfg s.env.plan s.env.dests a b :=
  mem_storeCost

theorem State.mem_pastCost {s : State} {a b : Nat} :
    b ∈ s.pastCost a ↔ StoreRaces s.cfg s.env.past s.env.pastDests a b :=
  mem_storeCost

/-- A store adds to the marks of the running job what it costs it. -/
theorem raced_hostStore {s : State} (ho : s.env.owning = true) (hj : s.job ≠ none) (a : Nat) (v : Byte) (b : Nat) :
    Raced (s.hostStore a v) b ↔ Raced s b ∨ StoreRaces s.cfg s.env.plan s.env.dests a b := by
  rw [Raced, State.hostStore_running ho hj]
  obtain ⟨m, heq, -⟩ := State.drawBytes_spec (s.pastCost a)
    { s.putByte a v with env := { (s.putByte a v).env with doomed := s.lastCost a ++ s.env.doomed } }
  rw [heq]
  exact (List.mem_append.trans (or_congr State.mem_lastCost Iff.rfl)).trans or_comm

/-- Settling draws the marked bytes and no other. -/
theorem settled_spec {s : State} (hwf : s.mem.wf = true) (b : Nat) :
    (Raced s b → ∃ n, s.env.draws ≤ n ∧ n < s.settled.env.draws ∧ s.settled.mem.byte b = Config.freeByte n)
      ∧ (¬Raced s b → s.settled.mem.byte b = s.mem.byte b) := by
  obtain ⟨m, heq, hout, hin⟩ := State.drawBytes_spec s.env.doomed s
  rw [State.settled, heq]
  exact ⟨fun h => hin hwf b h, fun h => hout b h⟩

/-- Settles O58, clause by clause: what START records, what it keeps, a store during a job, one after it, the job's end,
and a store with nothing owned. -/
theorem hostStoresRaceWithOwnedBytes : Obligations.HostStoresRaceWithOwnedBytes := by
  refine ⟨fun s i op c hj he hdec hjob hpres himm hw hh => ?_, fun s hj he => ?_, fun s a v hwf ho hj => ?_,
    fun s a v hwf ho hj => ?_, fun s hwf b => settled_spec hwf b, fun s a v ho => ?_⟩
  · have ht := traced_of_jobOf hjob
    have hfp : Footprinted s.cfg s.regs op c := ⟨⟨i, hdec, hjob, hpres⟩, himm, hw, hh⟩
    exact ⟨fun f hf => start_records_legal hj he ht hfp hf,
      fun q y k slot byte e d hq hy hep hdp hb hall => start_records_reserved hj he ht hfp hq hy hep hdp hb hall,
      fun p hp f hf => start_records_only hj he ht hfp hp hf⟩
  · exact ⟨fun r => mem_start_past hj he, fun p hp a => mem_start_via hj he hp, fun u w r => mem_storeElem_past⟩
  · intro t b
    obtain ⟨hin, hout⟩ := drawBytes_after_store (s := s) (a := a) (v := v) (l := s.pastCost a)
      (t := { s.putByte a v with env := { (s.putByte a v).env with doomed := s.lastCost a ++ s.env.doomed } }) hwf rfl rfl b
    rw [← State.hostStore_running ho hj] at hin hout
    exact ⟨fun h => hin (State.mem_pastCost.mpr h), fun h => hout fun hb => h (State.mem_pastCost.mp hb),
      raced_hostStore ho hj a v b⟩
  · intro t b hit
    have hmem : b ∈ s.lastCost a ++ s.pastCost a ↔ hit :=
      (List.mem_append.trans (or_congr State.mem_lastCost State.mem_pastCost)).trans or_comm
    obtain ⟨hin, hout⟩ := drawBytes_after_store (s := s) (a := a) (v := v) (l := s.lastCost a ++ s.pastCost a)
      (t := s.putByte a v) hwf rfl rfl b
    rw [← State.hostStore_ended ho hj] at hin hout
    exact ⟨fun h => hin (hmem.mpr h), fun h => hout fun hb => h (hmem.mp hb)⟩
  · simp only [State.hostStore, ho, Bool.not_false, if_true]
    exact ⟨rfl, rfl⟩

end Sys2Proof.Machine
end

section
/-! PROOFS. Every job ends (R503, R585): each engine step ends the job or lowers the bound on the steps it still takes, so
a run of that many steps comes to the end; and an end is DONE or ERR, never both (O35). -/

namespace Sys2Proof.Machine

/-! ### The bound on the steps of a cursor -/

/-- The engine steps that the pixels of a cursor still take, at most. -/
def cursorSteps (nd : Nat) (cur : List Pixel) : Nat := (cur.map (pixelSteps nd)).sum

/-- A choice splits the list into the element chosen and the others. -/
theorem pick_perm {α : Type} {k : Nat} {l rest : List α} {v : α} (h : pick k l = some (v, rest)) :
    (v :: rest).Perm l := by
  unfold pick at h
  split at h
  · cases h
  · next hv =>
    cases h
    obtain ⟨hk, rfl⟩ := List.getElem?_eq_some_iff.mp hv
    exact List.getElem_cons_eraseIdx_perm hk

theorem pick_length {α : Type} {k : Nat} {l rest : List α} {v : α} (h : pick k l = some (v, rest)) :
    l.length = rest.length + 1 :=
  (pick_perm h).length_eq.symm

theorem cursorSteps_cons (nd : Nat) (px : Pixel) (cur : List Pixel) :
    cursorSteps nd (px :: cur) = pixelSteps nd px + cursorSteps nd cur := by
  rw [cursorSteps, List.map_cons, List.sum_cons]
  rfl

theorem cursorSteps_pick {nd k : Nat} {cur others : List Pixel} {px : Pixel} (h : pick k cur = some (px, others)) :
    cursorSteps nd cur = pixelSteps nd px + cursorSteps nd others := by
  rw [← cursorSteps_cons]
  exact ((pick_perm h).map (pixelSteps nd)).sum_eq.symm

/-- The bound for the whole job (R585 (a)): every pixel has all its reads and writes before it. -/
theorem cursorSteps_cursorOf (op : JobOp) (x : JobCtx) :
    cursorSteps (op.dstElems x).length (cursorOf op x)
      = x.args.width.toNat * x.args.height.toNat * ((op.srcElems x).length + (op.dstElems x).length + 2) := by
  have hpx : ∀ c y, pixelSteps (op.dstElems x).length (newPixel op x c y)
      = (op.srcElems x).length + (op.dstElems x).length + 2 := fun c y => by
    simp [newPixel, pixelSteps, pixelReads]
  simp only [cursorSteps, cursorOf, rowMajor, List.flatMap_def, List.map_flatten, List.sum_flatten, List.map_map,
    Function.comp_def, hpx, List.map_const', List.map_replicate, List.sum_replicate, List.length_range,
    smul_eq_mul]
  ring

/-! ### One engine step -/

theorem pixelStores_length_le (op : JobOp) (x : JobCtx) (c y : Nat) (v : Nat → Word) :
    (pixelStores op x c y v).length ≤ (op.dstElems x).length := by
  rw [pixelStores, List.length_zipWith]
  exact Nat.min_le_left _ _

/-- Reading an element, or turning to the writes, brings the pixel nearer to its end. -/
theorem pixelSteps_afterRead (op : JobOp) (x : JobCtx) (px : Pixel) (todo : List (Nat × Access))
    (got : List (Nat × Word)) :
    pixelSteps (op.dstElems x).length { px with stage := afterRead op x px todo got }
      < todo.length + 1 + (op.dstElems x).length + 2 := by
  cases todo with
  | nil =>
    have := pixelStores_length_le op x px.x px.y (slotValue got)
    simp only [afterRead, pixelSteps, List.length_nil]
    omega
  | cons p rest =>
    simp only [afterRead, pixelSteps]
    omega

theorem cursorSteps_afterWrite (nd : Nat) (px : Pixel) (left : List Store) (others : List Pixel) :
    cursorSteps nd (afterWrite px left others) ≤ left.length + 1 + cursorSteps nd others := by
  cases left with
  | nil => exact Nat.le_add_left _ _
  | cons w rest => exact (cursorSteps_cons nd _ others).le

/-- One access ends the job or leaves fewer steps. -/
theorem pixelStep_advances (op : JobOp) (x : JobCtx) (j : Job) (a : Nat) (px : Pixel) (others : List Pixel) (s : State) :
    (pixelStep op x j a px others s).job = none
    ∨ ∃ cur, (pixelStep op x j a px others s).job = some { j with cursor := cur }
      ∧ cursorSteps (op.dstElems x).length cur
        < pixelSteps (op.dstElems x).length px + cursorSteps (op.dstElems x).length others := by
  unfold pixelStep
  split
  · next todo got hst =>
    have hpx : pixelSteps (op.dstElems x).length px = todo.length + (op.dstElems x).length + 2 := by
      simp only [pixelSteps, hst]
    split
    · refine .inr ⟨_, rfl, ?_⟩
      have hw := pixelStores_length_le op x px.x px.y (slotValue got)
      rw [cursorSteps_cons, hpx]
      simp only [afterRead, pixelSteps]
      omega
    · next slot c rest hp =>
      split
      · exact .inl rfl
      · refine .inr ⟨_, rfl, ?_⟩
        have hr := pixelSteps_afterRead op x px rest ((slot, s.mem.read c) :: got)
        rw [cursorSteps_cons, hpx, pick_length hp]
        omega
  · next left hst =>
    have hpx : pixelSteps (op.dstElems x).length px = left.length + 1 := by simp only [pixelSteps, hst]
    split
    · exact .inr ⟨_, rfl, by omega⟩
    · next w rest hp =>
      split
      · exact .inl rfl
      · refine .inr ⟨_, rfl, ?_⟩
        have hw := cursorSteps_afterWrite (op.dstElems x).length px rest others
        rw [hpx, pick_length hp]
        omega

theorem accessStep_advances (op : JobOp) (x : JobCtx) (j : Job) (s : State) :
    (accessStep op x j s).job = none
    ∨ ∃ cur, (accessStep op x j s).job = some { j with cursor := cur }
      ∧ cursorSteps (op.dstElems x).length cur < cursorSteps (op.dstElems x).length j.cursor := by
  unfold accessStep
  dsimp only
  split
  · exact .inl rfl
  · next px others hp =>
    rw [cursorSteps_pick hp]
    exact pixelStep_advances op x j _ px others _

/-- A passed check leaves fewer steps than the check step counted. -/
theorem checkStep_advances (op : JobOp) {c : Cmd} {f : Fields} (hf : resolve c = some f) {j : Job}
    (hp : j.phase = .check) (s : State) :
    (checkStep op ⟨s.cfg, j.args, f⟩ j s).job = none
    ∨ ∃ j', (checkStep op ⟨s.cfg, j.args, f⟩ j s).job = some j'
      ∧ stepsLeft op c s.cfg j' < stepsLeft op c s.cfg j := by
  have hall := cursorSteps_cursorOf op ⟨s.cfg, j.args, f⟩
  unfold checkStep
  split
  · exact .inl rfl
  · refine .inr ⟨_, rfl, ?_⟩
    unfold cursorSteps at hall
    cases haddr : addressed ⟨s.cfg, j.args, f⟩ <;> cases hfill : needsFill op ⟨s.cfg, j.args, f⟩ s.lut <;>
      simp only [stepsLeft, hf, hp, nextPhase, haddr, hfill, Bool.not_true, Bool.not_false, Bool.false_eq_true, if_true,
        if_false, hall] <;> omega

/-- Each engine step (R503) ends the job or lowers the bound on the steps it still takes. -/
theorem engineStep_advances (op : JobOp) (c : Cmd) (j : Job) (s : State) :
    (engineStep op c j s).job = none
    ∨ ∃ j', (engineStep op c j s).job = some j' ∧ stepsLeft op c s.cfg j' < stepsLeft op c s.cfg j := by
  cases hf : resolve c with
  | none => exact .inl (by simp only [engineStep, hf]; rfl)
  | some f =>
    simp only [engineStep, hf]
    cases hp : j.phase with
    | check => exact checkStep_advances op hf hp s
    | finish =>
      refine .inl ?_
      dsimp only
      unfold finishStep
      split <;> rfl
    | lut =>
      refine .inr ⟨_, rfl, ?_⟩
      simp only [stepsLeft, hf, hp]
      omega
    | traverse =>
      refine (accessStep_advances op ⟨s.cfg, j.args, f⟩ j s).imp_right fun ⟨cur, hj, hlt⟩ => ⟨_, hj, ?_⟩
      simp only [stepsLeft, hf, hp]
      exact Nat.add_lt_add_left hlt 1

/-! ### The run -/

/-- A run of as many steps as the bound says comes to the job's end. -/
theorem engineRun_ends (op : JobOp) (c : Cmd) :
    ∀ (n : Nat) (s : State), (∀ j, s.job = some j → stepsLeft op c s.cfg j ≤ n) →
      (engineRun (engineStep op c) n s).job = none
  | 0, s, h => by
    cases hj : s.job with
    | none => exact hj
    | some j =>
      exfalso
      have h0 := h j hj
      unfold stepsLeft at h0
      split at h0
      · omega
      · dsimp only at h0
        split at h0 <;> omega
  | n + 1, s, h => by
    cases hj : s.job with
    | none => rw [engineRun_none hj]; exact hj
    | some j =>
      rw [engineRun_some hj]
      refine engineRun_ends op c n _ fun j' hj' => ?_
      rw [(engineStep_sameInputs op c j s).1]
      have hb := h j hj
      rcases engineStep_advances op c j s with hn | ⟨k, hk, hlt⟩
      · rw [hn] at hj'; cases hj'
      · obtain rfl := Option.some.inj (hk.symm.trans hj')
        omega

/-! ### The ending -/

/-- The job has come to DONE, or to ERR with a code (R510), and not to both. -/
def EndedOnce (s : State) : Prop :=
  (s.done = true ∧ s.err = none) ∨ (s.done = false ∧ ∃ e, s.err = some e ∧ 1 ≤ e.code ∧ e.code ≤ 8)

/-- A job runs with DONE and ERR clear, or it has ended in one of them. -/
def OnCourse (s : State) : Prop := (s.job ≠ none ∧ s.done = false ∧ s.err = none) ∨ (s.job = none ∧ EndedOnce s)

theorem ErrCode.code_range (e : ErrCode) : 1 ≤ e.code ∧ e.code ≤ 8 := by cases e <;> decide

theorem endedOnce_errorEntry {s : State} (hd : s.done = false) (code : ErrCode) (lo hi : Word) :
    EndedOnce (s.settled.errorEntry code lo hi) :=
  .inr ⟨(s.settled_done).trans hd, code, rfl, code.code_range⟩

theorem onCourse_pixelStep {s : State} (hd : s.done = false) (he : s.err = none) (op : JobOp) (x : JobCtx) (j : Job)
    (a : Nat) (px : Pixel) (others : List Pixel) : OnCourse (pixelStep op x j a px others s) := by
  rcases pixelStep_cases op x j a px others s with ⟨b, e⟩ | ⟨cur, e⟩ | ⟨w, cur, -, e⟩ <;> rw [e]
  · exact .inr ⟨rfl, endedOnce_errorEntry hd _ _ _⟩
  · exact .inl ⟨Option.some_ne_none _, hd, he⟩
  · exact .inl ⟨Option.some_ne_none _, hd, he⟩

theorem onCourse_engineStep {s : State} {j : Job} (hj : s.job = some j) (h : OnCourse s) (op : JobOp) (c : Cmd) :
    OnCourse (engineStep op c j s) := by
  obtain ⟨-, hd, he⟩ := h.resolve_right fun ⟨hn, _⟩ => by rw [hn] at hj; cases hj
  have hse : s.settled.err = none := s.settled_err.trans he
  rcases engineStep_cases op c j s with ⟨code, lo, hi, e⟩ | ⟨j', e⟩ | ⟨q, e⟩ | ⟨f, e⟩ | e | ⟨x, a, px, others, e⟩ <;> rw [e]
  · exact .inr ⟨rfl, endedOnce_errorEntry hd _ _ _⟩
  · exact .inl ⟨Option.some_ne_none _, hd, he⟩
  · exact .inr ⟨rfl, .inl ⟨rfl, hse⟩⟩
  · exact .inl ⟨Option.some_ne_none _, hd, he⟩
  · exact .inr ⟨rfl, .inl ⟨rfl, hse⟩⟩
  · exact onCourse_pixelStep (s := { s with env := { s.env with tape := s.env.tape.tail } }) hd he op x j a px others

/-- NOP's one engine step is the completion (R331). -/
theorem execNop_alone {s : State} (hj : s.job ≠ none) (hi : s.env.inputs = []) :
    execNop s = .next s.settled.complete := by
  obtain ⟨j, hj⟩ := Option.ne_none_iff_exists'.mp hj
  have hin : s.settled.complete.env.inputs = [] := s.settled_sameInputs.2.trans hi
  have hslots : s.slots 1 = 1 := by rw [State.slots, hi]
  rw [execNop, hj]
  dsimp only
  rw [hslots, engineRun_some hj, engineRun, State.spend_nil hin]

/-- With no host action to come, a command's meaning is its run to the end. -/
theorem exec_alone {i : Instr} {op : JobOp} {c : Cmd} (hi : jobOf i = some (op, c)) {s : State} (hj : s.job ≠ none)
    (hin : s.env.inputs = []) :
    ∃ n, exec i s = .next (engineRun (engineStep op c) n s) ∧ (engineRun (engineStep op c) n s).job = none := by
  obtain ⟨j, hj⟩ := Option.ne_none_iff_exists'.mp hj
  refine ⟨stepsLeft op c s.cfg j, ?_, engineRun_ends op c _ s fun k hk => ?_⟩
  · rw [exec_eq_runJob hi, runJob_alone hj hin, State.spend_nil]
    exact (engineRun_sameInputs (engineStep_sameInputs op c) _ s).2.trans hin
  · obtain rfl := Option.some.inj (hj.symm.trans hk)
    exact Nat.le_refl _

/-- Settles O35: the run comes to the job's end, and every engine step from a state on course leads to one on course. -/
theorem everyJobEnds : Obligations.EveryJobEnds := by
  intro i s hj hin
  cases hi : jobOf i with
  | none =>
    rw [jobOf_none hi]
    exact ⟨_, execNop_alone hj hin, rfl, fun _ he => .inl ⟨rfl, s.settled_err.trans he⟩⟩
  | some p =>
    obtain ⟨n, hexec, hend⟩ := exec_alone (op := p.1) (c := p.2) hi hj hin
    refine ⟨_, hexec, hend, fun hd he => ?_⟩
    have hrun : OnCourse (engineRun (engineStep p.1 p.2) n s) :=
      engineRun_invariant (fun _ _ hk h => onCourse_engineStep hk h p.1 p.2) n s (.inl ⟨hj, hd, he⟩)
    exact (hrun.resolve_left fun h => h.1 hend).2

end Sys2Proof.Machine
end

section
/-! PROOFS. The register window (R41 to R58, R77): accesses CTP does not answer, offsets that take no write, the words of
STATUS, FEATURES and CTRL, the order of a CTRL write, and the two resets (O36, O41 to O46, O49 to O51). -/

namespace Sys2Proof.Machine

/-! ### Accesses that CTP does not answer (R41) -/

theorem isRegAccess_false {off width : Nat} (h : width ≠ 4 ∨ off % 4 ≠ 0) : isRegAccess off width = false := by
  rcases h with h | h <;> simp [isRegAccess, h]

theorem State.regWrite_ignored (s : State) {off width : Nat} (h : isRegAccess off width = false) (v : Word) :
    s.regWrite off width v = s := by
  rw [State.regWrite, h]; rfl

theorem State.regRead_ignored (s : State) {off width : Nat} (h : isRegAccess off width = false) :
    s.regRead off width = { s with env := { s.env with readData := 0#32 } } := by
  rw [State.regRead, h]; rfl

/-- Settles O43: neither a write nor a read is answered. -/
theorem narrowAccessIsIgnored : Obligations.NarrowAccessIsIgnored := fun s _ _ v h =>
  ⟨s.regWrite_ignored (isRegAccess_false h) v, s.regRead_ignored (isRegAccess_false h)⟩

/-! ### Offsets that take no write (R42, R43) -/

/-- An offset that names no RW register and no bank entry leaves the register file as it is. -/
theorem Regs.write_unassigned (r : Regs) (w : AddrWidth) {off : Nat} (hm : off ∉ plainOffsets ++ hiOffsets)
    (hb : bankEntry off = none) (v : Word) : r.write w off v = r := by
  unfold Regs.write
  split
  case h_25 => rw [hb]
  all_goals exact absurd (by decide) hm

theorem State.regWrite_unassigned (s : State) {off : Nat} (ha : off % 4 = 0) (hw : off < 4096) (hc : off ≠ 0x008)
    (hs : off ≠ 0x00C) (hm : off ∉ plainOffsets ++ hiOffsets) (hb : bankEntry off = none) (v : Word) :
    s.regWrite off 4 v = s := by
  rw [s.regWrite_latched ha hw hc hs, Regs.write_unassigned _ _ hm hb]

/-- A read leaves everything but the surroundings: what it returned, and what the host has observed (R43, R112). -/
theorem State.regRead_env (s : State) (off width : Nat) : ∃ e, s.regRead off width = { s with env := e } := by
  unfold State.regRead State.observe
  split
  · exact ⟨_, rfl⟩
  · dsimp only
    split
    · split
      · exact ⟨_, rfl⟩
      · exact ⟨_, rfl⟩
    · exact ⟨_, rfl⟩

/-- Settles O41: the read-only offsets are no RW register's and no bank entry's. -/
theorem readOnlyRegistersTakeNoWrite : Obligations.ReadOnlyRegistersTakeNoWrite := by
  refine ⟨fun s off v h => ?_, State.regRead_env⟩
  have hro : ∀ o ∈ [0x000, 0x004, 0x070, 0x074, 0x090, 0x094, 0x098, 0x09C], o % 4 = 0 ∧ o < 4096 ∧ o ≠ 0x008 ∧ o ≠ 0x00C
      ∧ o ∉ plainOffsets ++ hiOffsets ∧ bankEntry o = none := by decide
  obtain ⟨ha, hw, hc, hs, hm, hb⟩ := hro off h
  exact s.regWrite_unassigned ha hw hc hs hm hb v

/-- The offsets of the registers that are no RW register of the file: ID, FEATURES, CTRL, STATUS, ERR_INFO, PIX_OUT. -/
def specialOffsets : List Nat := [0x000, 0x004, 0x008, 0x00C, 0x070, 0x074, 0x090, 0x094, 0x098, 0x09C]

/-- R42: an offset that names nothing reads 0. -/
theorem State.readReg_unassigned (s : State) {off : Nat} (hm : off ∉ plainOffsets ++ hiOffsets ++ specialOffsets)
    (hb : bankEntry off = none) : s.readReg off = 0#32 := by
  unfold State.readReg
  split
  case h_35 => rw [hb]
  all_goals exact absurd (by decide) hm

theorem bankEntry_eq_none {off : Nat} (ha : off % 4 = 0) (h : ¬isBankOffset off) : bankEntry off = none := by
  cases hb : bankEntry off with
  | none => rfl
  | some p => exact absurd ⟨p.1, p.2, (bankEntry_iff ha).mp hb⟩ h

/-- Settles O42: such an offset is in none of the lists that a read or a write goes through. -/
theorem reservedOffsetsReadZero : Obligations.ReservedOffsetsReadZero := by
  intro s off v ha hw hbank h
  have hb := bankEntry_eq_none ha hbank
  refine ⟨s.readReg_unassigned h hb, s.regWrite_unassigned ha hw ?_ ?_ (fun hm => h (List.mem_append_left _ hm)) hb v⟩
  all_goals rintro rfl; exact h (by decide)

/-! ### A write during a job (R77) -/

/-- Settles O49: the write changes the register file alone, and a START latches that file. -/
theorem writesDuringJobDoNotAffectIt : Obligations.WritesDuringJobDoNotAffectIt := by
  intro s off v _ ha hw hc hs t
  have ht : t = { s with regs := s.regs.write s.cfg.addrW off v } := s.regWrite_latched ha hw hc hs v
  refine ⟨⟨_, ht⟩, by rw [ht], fun hp => ((registersReadBack s off v).1 hp).1, fun u hu hj he => ?_⟩
  rw [State.start_eq_accept hj he, State.accept_job, hu]

/-! ### Fields of a word -/

theorem bits_ofNat {n : Nat} (h : n < 2 ^ 32) (lo len : Nat) : bits (BitVec.ofNat 32 n) lo len = n / 2 ^ lo % 2 ^ len := by
  rw [bits, BitVec.toNat_ofNat, Nat.mod_eq_of_lt h]

/-- A one-bit field is a bit. -/
theorem getLsbD_of_bits {w : Word} {k : Nat} {b : Bool} (h : bits w k 1 = b.toNat) : w.getLsbD k = b := by
  rw [BitVec.getLsbD, Nat.testBit_eq_decide_div_mod_eq, show w.toNat / 2 ^ k % 2 = b.toNat from h]
  cases b <;> rfl

theorem State.errCode_lt (s : State) : s.errCode < 2 ^ 4 := by
  unfold State.errCode
  split
  · decide
  · next e _ => cases e <;> decide

theorem State.lutTf_lt (s : State) : s.lutTf < 2 ^ 4 := by
  unfold State.lutTf
  split
  · cases s.lut.tf <;> decide
  · decide

/-- Settles O44: the fields of the sum do not overlap, and each is below its width. -/
theorem statusWordFields : Obligations.StatusWordFields := by
  intro s w
  have hbusy := s.busy.toNat_lt
  have hdone := s.done.toNat_lt
  have herr := s.errBit.toNat_lt
  have hirq := s.irq.toNat_lt
  have hvalid := s.lut.valid.toNat_lt
  have hcode := s.errCode_lt
  have htf := s.lutTf_lt
  have hw : ∀ lo len, bits w lo len = (s.busy.toNat + s.done.toNat * 2 ^ 1 + s.errBit.toNat * 2 ^ 2 + s.irq.toNat * 2 ^ 3
      + s.errCode * 2 ^ 8 + s.lut.valid.toNat * 2 ^ 16 + s.lutTf * 2 ^ 20) / 2 ^ lo % 2 ^ len :=
    bits_ofNat (by omega)
  refine ⟨getLsbD_of_bits (b := s.busy) ?_, getLsbD_of_bits ?_, getLsbD_of_bits (b := s.errBit) ?_,
    getLsbD_of_bits (b := s.irq) ?_, show bits w 8 4 = s.errCode from ?_, getLsbD_of_bits ?_,
    show bits w 20 4 = s.lutTf from ?_, ?_, ?_, ?_, ?_⟩ <;> rw [hw] <;> omega

theorem lanesLog2_lt (l : Lanes) : lanesLog2 l < 2 ^ 4 := by cases l <;> decide

/-- Settles O45: as for STATUS. -/
theorem featuresWordFields : Obligations.FeaturesWordFields := by
  refine ⟨fun s => ?_, rfl⟩
  intro w
  have hcmp := s.cfg.hasCompare.toNat_lt
  have hwide := (decide (s.cfg.addrW = .w64)).toNat_lt
  have hlanes := lanesLog2_lt s.cfg.lanes
  have htrue : true.toNat = 1 := rfl
  have hfalse : false.toNat = 0 := rfl
  have hw : ∀ lo len, bits w lo len = (1 + s.cfg.hasCompare.toNat * 2 ^ 1 + (decide (s.cfg.addrW = .w64)).toNat * 2 ^ 2
      + lanesLog2 s.cfg.lanes * 2 ^ 4 + min s.cfg.rowEngines 255 * 2 ^ 8) / 2 ^ lo % 2 ^ len :=
    bits_ofNat (by omega)
  refine ⟨getLsbD_of_bits (b := true) ?_, getLsbD_of_bits ?_, getLsbD_of_bits ?_, getLsbD_of_bits (b := false) ?_,
    show bits w 4 4 = lanesLog2 s.cfg.lanes from ?_, ?_, ?_⟩ <;> rw [hw] <;> omega

/-! ### CTRL (R48 to R51) -/

/-- CTRL reads back the enables alone. -/
theorem State.ctrlWord_of_enables {s : State} {v : Word} (hd : s.ieDone = v.getLsbD 8) (he : s.ieErr = v.getLsbD 9) :
    s.ctrlWord = v &&& 0x300#32 := by
  have hmask : (v &&& 0x300#32).toNat = (v.getLsbD 8).toNat * 2 ^ 8 ||| (v.getLsbD 9).toNat * 2 ^ 9 := by
    rw [BitVec.toNat_and, show (0x300#32).toNat = 2 ^ 8 ||| 2 ^ 9 from rfl, Nat.and_or_distrib_left, Nat.and_two_pow,
      Nat.and_two_pow]
    rfl
  apply BitVec.eq_of_toNat_eq
  rw [hmask, State.ctrlWord, hd, he]
  cases v.getLsbD 8 <;> cases v.getLsbD 9 <;> rfl

/-- LUT_INV clears the valid bit where no job runs (R51), and nothing else. -/
theorem State.lutInvalidate_eq (s : State) :
    s.lutInvalidate = { s with lut := { s.lut with valid := s.lut.valid && s.job.isSome } } := by
  unfold State.lutInvalidate State.busy
  cases s.job.isSome <;> simp

/-- What a CTRL write without SRESET does before its START. -/
theorem State.writeCtrl_eq (s : State) {v : Word} (h : v.getLsbD 1 = false) :
    s.writeCtrl v =
      let u : State := { s with
        ieDone := v.getLsbD 8
        ieErr := v.getLsbD 9
        lut := { s.lut with valid := s.lut.valid && !(v.getLsbD 2 && s.job.isNone) } }
      if v.getLsbD 0 then u.start else u := by
  unfold State.writeCtrl
  rw [h]
  cases v.getLsbD 2
  · simp
  · simp [State.lutInvalidate_eq]

/-- START, where it is asked for, leaves the enables, ERR, every register, the table and memory as they are. -/
theorem State.start_frame (s : State) (b : Bool) :
    let t := if b then s.start else s
    t.ieDone = s.ieDone ∧ t.ieErr = s.ieErr ∧ t.lut = s.lut ∧ t.err = s.err ∧ t.regs = s.regs ∧ t.mem = s.mem
      ∧ t.pixOut = s.pixOut := by
  cases b
  · exact ⟨rfl, rfl, rfl, rfl, rfl, rfl, rfl⟩
  · dsimp only
    rw [if_pos rfl]
    rcases s.start_cases with ⟨-, -, e⟩ | ⟨-, e⟩ <;> rw [e]
    · exact ⟨rfl, rfl, rfl, rfl, rfl, rfl, rfl⟩
    · exact ⟨rfl, rfl, rfl, rfl, rfl, rfl, rfl⟩

theorem State.resetBlock_ctrlWord (s : State) : s.resetBlock.ctrlWord = 0#32 := by
  obtain ⟨m, d, e⟩ := s.resetBlock_spec
  simp [e, State.ctrlWord]

/-- Settles O46: SRESET alone, or the enables and the table, then START. -/
theorem ctrlWriteOrder : Obligations.CtrlWriteOrder := by
  intro s v t
  cases h1 : v.getLsbD 1 with
  | true =>
    have ht : t = s.resetBlock := by
      change s.writeCtrl v = _
      rw [State.writeCtrl, h1]; rfl
    refine ⟨fun _ => ht, nofun, ?_⟩
    change t.ctrlWord = _
    rw [ht]
    exact s.resetBlock_ctrlWord
  | false =>
    let u : State := { s with
      ieDone := v.getLsbD 8
      ieErr := v.getLsbD 9
      lut := { s.lut with valid := s.lut.valid && !(v.getLsbD 2 && s.job.isNone) } }
    have ht : t = if v.getLsbD 0 then u.start else u := s.writeCtrl_eq h1
    obtain ⟨hd, he, hl, herr, hregs, hmem, hpix⟩ := u.start_frame (v.getLsbD 0)
    rw [← ht] at hd he hl herr hregs hmem hpix
    refine ⟨nofun, fun _ => ⟨hd, he, congrArg Lut.valid hl, fun h0 hj hn => ?_, fun h0 => ?_, herr, hregs, hmem, hpix⟩,
      State.ctrlWord_of_enables hd he⟩
    · rw [ht, h0, if_pos rfl, State.start_eq_accept (s := u) hj hn]
      exact ⟨rfl, rfl⟩
    · rw [ht, h0]
      exact ⟨rfl, rfl⟩

/-! ### Resets (R560 to R562) -/

theorem hiWord_zero (w : AddrWidth) : hiWord w 0#32 = 0#32 := by cases w <;> rfl

/-- After a reset every register but FEATURES, which shows the configuration, reads its reset value. -/
theorem State.readReg_blockReset (cfg : Config) (m : Memory) (e : Env) {off : Nat} (h : off ≠ 0x004) :
    (State.blockReset cfg m e).readReg off = State.reset.readReg off := by
  unfold State.readReg
  split
  case h_2 => exact absurd rfl h
  case h_9 => exact hiWord_zero _
  case h_12 => exact hiWord_zero _
  case h_15 => exact hiWord_zero _
  all_goals rfl

/-- A reset settles the races of a job it cuts. -/
theorem State.resetBlock_mem (s : State) : s.resetBlock.mem = if s.job = none then s.mem else s.settled.mem := by
  unfold State.resetBlock State.busy
  cases s.job <;> rfl

/-- What the statement asks of the state after a reset. -/
theorem State.resetBlock_registers (s : State) :
    s.resetBlock.job = none ∧ s.resetBlock.ieDone = false ∧ s.resetBlock.ieErr = false
      ∧ s.resetBlock.readReg 0x008 = 0#32 ∧ s.resetBlock.readReg 0x00C = 0#32 ∧ s.resetBlock.lut.valid = false
      ∧ s.resetBlock.cfg = s.cfg ∧ ∀ off, off ≠ 0x004 → s.resetBlock.readReg off = State.reset.readReg off := by
  obtain ⟨m, d, e⟩ := s.resetBlock_spec
  have hr : ∀ off, off ≠ 0x004 → s.resetBlock.readReg off = State.reset.readReg off := fun off h => by
    rw [e]
    exact State.readReg_blockReset _ _ _ h
  refine ⟨?_, ?_, ?_, (hr 0x008 (by decide)).trans rfl, (hr 0x00C (by decide)).trans rfl, ?_, ?_, hr⟩ <;> rw [e] <;> rfl

/-- Settles O50: both resets are the reset of the block. -/
theorem resetState : Obligations.ResetState := by
  intro s afterReset
  have hafter : afterReset s.resetBlock := by
    obtain ⟨hj, hd, he, hc, hs, hl, hcfg, hr⟩ := s.resetBlock_registers
    exact ⟨hj, hd, he, hc, hs, hl, hcfg, fun off _ h => hr off h, s.resetBlock_mem⟩
  refine ⟨fun v hv => ⟨rfl, ?_⟩, _, rfl, hafter⟩
  rw [(ctrlWriteOrder s v).1 hv]
  exact hafter

/-- Settles O36: nothing is listed in memory, and the block is reset. -/
theorem resetMeetsInvariant : Obligations.ResetMeetsInvariant :=
  Inv.blockReset Config.reference rfl Env.reset

/-- Settles O51 by evaluating the reset state, a fixed one. -/
theorem resetRegisterValues : Obligations.ResetRegisterValues :=
  ⟨rfl, rfl, by decide, rfl, rfl⟩

/-! ### A step without a host action (R503, R563) -/

/-- The host's turn does not come while engine steps are to come before its next action, or with no action at all. -/
theorem State.hostTurn_none {s : State}
    (h : s.env.inputs = [] ∨ s.job ≠ none ∧ ∃ p rest, s.env.inputs = p :: rest ∧ p.after ≠ 0) : s.hostTurn = none := by
  unfold State.hostTurn
  rcases h with h | ⟨hj, p, rest, h, hp⟩ <;> rw [h]
  obtain ⟨j, hj⟩ := Option.ne_none_iff_exists'.mp hj
  simp [hj, hp]

/-- Settles O4. -/
theorem stepRunsDecodedCommand : Obligations.StepRunsDecodedCommand := by
  refine ⟨fun s j i hj hin hdec => ?_, fun s hj hin => ?_⟩
  · have ht : s.hostTurn = none := State.hostTurn_none (hin.imp_right fun h => ⟨hj ▸ Option.some_ne_none j, h⟩)
    have hfetch : s.fetch = some j.args.cmd := by rw [State.fetch, hj]; rfl
    simp only [step, ht, hfetch, hdec]
  · have hfetch : s.fetch = none := by rw [State.fetch, hj]; rfl
    simp only [step, State.hostTurn_none (.inl hin), hfetch]

end Sys2Proof.Machine
end

section
/-! PROOFS. What commands keep (R45, R72, R77): no engine step touches what the host wrote, read or owns, and PIX_OUT is
written by the end of an IMM job alone (O31). -/

namespace Sys2Proof.Machine

/-! ### What is the host's -/

/-- `t` has the parameters, the enables, the registers and the host's record of `s`, but for elements of earlier jobs that
were written over. -/
structure KeepsHost (s t : State) : Prop where
  cfg : t.cfg = s.cfg
  ieDone : t.ieDone = s.ieDone
  ieErr : t.ieErr = s.ieErr
  regs : t.regs = s.regs
  readData : t.env.readData = s.env.readData
  owning : t.env.owning = s.env.owning
  plan : t.env.plan = s.env.plan
  dests : t.env.dests = s.env.dests
  past : ∀ p ∈ t.env.past, p ∈ s.env.past
  pastDests : t.env.pastDests = s.env.pastDests
  doomed : t.env.doomed = s.env.doomed
  dirty : t.env.dirty = s.env.dirty
  stale : t.env.stale = s.env.stale

theorem KeepsHost.refl (s : State) : KeepsHost s s :=
  ⟨rfl, rfl, rfl, rfl, rfl, rfl, rfl, rfl, fun _ h => h, rfl, rfl, rfl, rfl⟩

theorem KeepsHost.trans {s t u : State} (h : KeepsHost s t) (h' : KeepsHost t u) : KeepsHost s u where
  cfg := h'.cfg.trans h.cfg
  ieDone := h'.ieDone.trans h.ieDone
  ieErr := h'.ieErr.trans h.ieErr
  regs := h'.regs.trans h.regs
  readData := h'.readData.trans h.readData
  owning := h'.owning.trans h.owning
  plan := h'.plan.trans h.plan
  dests := h'.dests.trans h.dests
  past p hp := h.past p (h'.past p hp)
  pastDests := h'.pastDests.trans h.pastDests
  doomed := h'.doomed.trans h.doomed
  dirty := h'.dirty.trans h.dirty
  stale := h'.stale.trans h.stale

/-- The rest of the state, and the parts of the surroundings that are not the host's, may change. -/
theorem KeepsHost.update (s : State) (d : Bool) (e : Option ErrCode) (lo hi : Word) (q : Quad) (l : Lut) (j : Option Job)
    (m : Memory) (inputs : List Input) (tape : List (Nat × Nat)) (draws : Nat) :
    KeepsHost s { s with
      done := d, err := e, errInfoLo := lo, errInfoHi := hi, pixOut := q, lut := l, job := j, mem := m
      env := { s.env with inputs := inputs, tape := tape, draws := draws } } :=
  ⟨rfl, rfl, rfl, rfl, rfl, rfl, rfl, rfl, fun _ h => h, rfl, rfl, rfl, rfl⟩

theorem State.settled_keepsHost (s : State) : KeepsHost s s.settled := by
  obtain ⟨m, d, h⟩ := s.settled_eq
  rw [h]
  exact KeepsHost.update s ..

theorem State.spend_keepsHost (s : State) : KeepsHost s s.spend := by
  unfold State.spend
  split
  · exact KeepsHost.refl s
  · exact KeepsHost.update s ..

/-- A store takes from the record of earlier jobs the bytes it writes (log entry 15). -/
theorem State.storeElem_keepsHost (s : State) (w : Store) : KeepsHost s (s.storeElem w) :=
  ⟨rfl, rfl, rfl, rfl, rfl, rfl, rfl, rfl, fun _ h => List.mem_of_mem_filter h, rfl, rfl, rfl, rfl⟩

theorem pixelStep_keepsHost (op : JobOp) (x : JobCtx) (j : Job) (a : Nat) (px : Pixel) (others : List Pixel) (s : State) :
    KeepsHost s (pixelStep op x j a px others s) := by
  rcases pixelStep_cases op x j a px others s with ⟨b, e⟩ | ⟨cur, e⟩ | ⟨w, cur, -, e⟩ <;> rw [e]
  · exact s.settled_keepsHost.trans (KeepsHost.update _ ..)
  · exact KeepsHost.update s ..
  · exact (s.storeElem_keepsHost w).trans (KeepsHost.update _ ..)

theorem engineStep_keepsHost (op : JobOp) (c : Cmd) (j : Job) (s : State) : KeepsHost s (engineStep op c j s) := by
  rcases engineStep_cases op c j s with ⟨code, lo, hi, e⟩ | ⟨j', e⟩ | ⟨q, e⟩ | ⟨f, e⟩ | e | ⟨x, a, px, others, e⟩ <;> rw [e]
  · exact s.settled_keepsHost.trans (KeepsHost.update _ ..)
  · exact KeepsHost.update s ..
  · exact s.settled_keepsHost.trans (KeepsHost.update _ ..)
  · exact KeepsHost.update s ..
  · exact s.settled_keepsHost.trans (KeepsHost.update _ ..)
  · exact (KeepsHost.update s ..).trans
      (pixelStep_keepsHost op x j a px others { s with env := { s.env with tape := s.env.tape.tail } })

theorem engineRun_keepsHost {g : Job → State → State} (hg : ∀ j s, KeepsHost s (g j s)) (n : Nat) (s : State) :
    KeepsHost s (engineRun g n s) :=
  engineRun_invariant (fun j u _ h => h.trans (hg j u)) n s (KeepsHost.refl s)

/-! ### PIX_OUT (R72) -/

theorem pixelStep_pixOut (op : JobOp) (x : JobCtx) (j : Job) (a : Nat) (px : Pixel) (others : List Pixel) (s : State) :
    (pixelStep op x j a px others s).pixOut = s.pixOut := by
  rcases pixelStep_cases op x j a px others s with ⟨b, e⟩ | ⟨cur, e⟩ | ⟨w, cur, -, e⟩ <;> rw [e]
  · exact s.settled_pixOut
  · rfl

theorem accessStep_pixOut (op : JobOp) (x : JobCtx) (j : Job) (s : State) :
    (accessStep op x j s).pixOut = s.pixOut := by
  rcases accessStep_cases op x j s with e | ⟨a, px, others, e⟩ <;> rw [e]
  · exact s.settled_pixOut
  · exact pixelStep_pixOut op x j a px others _

theorem checkStep_pixOut (op : JobOp) (x : JobCtx) (j : Job) (s : State) : (checkStep op x j s).pixOut = s.pixOut := by
  unfold checkStep
  split
  · exact s.settled_pixOut
  · rfl

/-- The command is a single-pixel one (R330), and its job has ended in DONE. -/
def ImmDone (c : Cmd) (s : State) : Prop := (∃ f, resolve c = some f ∧ f.imm = true) ∧ s.job = none ∧ s.done = true

/-- PIX_OUT is written by the completion of an IMM job alone. -/
theorem engineStep_pixOut (op : JobOp) (c : Cmd) (j : Job) (s : State) :
    (engineStep op c j s).pixOut = s.pixOut ∨ ImmDone c (engineStep op c j s) := by
  unfold engineStep
  cases hf : resolve c with
  | none => exact .inl s.settled_pixOut
  | some f =>
    dsimp only
    cases j.phase with
    | check => exact .inl (checkStep_pixOut op _ j s)
    | finish =>
      unfold finishStep
      cases himm : f.imm with
      | true => exact .inr ⟨⟨f, hf, himm⟩, by simp⟩
      | false => exact .inl (by simp)
    | lut => exact .inl rfl
    | traverse => exact .inl (accessStep_pixOut op _ j s)

theorem engineRun_pixOut (op : JobOp) (c : Cmd) (n : Nat) (s : State) :
    (engineRun (engineStep op c) n s).pixOut = s.pixOut ∨ ImmDone c (engineRun (engineStep op c) n s) := by
  refine engineRun_invariant (P := fun u => u.pixOut = s.pixOut ∨ ImmDone c u) (fun j u hj h => ?_) n s (.inl rfl)
  have hu : u.pixOut = s.pixOut := h.resolve_right fun hd => by rw [hd.2.1] at hj; cases hj
  exact (engineStep_pixOut op c j u).imp_left fun e => e.trans hu

theorem State.spend_frame (s : State) : s.spend.pixOut = s.pixOut ∧ s.spend.job = s.job ∧ s.spend.done = s.done := by
  unfold State.spend
  split <;> exact ⟨rfl, rfl, rfl⟩

/-! ### Commands -/

theorem cmd?_of_jobOf {i : Instr} {op : JobOp} {c : Cmd} (h : jobOf i = some (op, c)) : i.cmd? = some c := by
  cases i <;> cases h <;> rfl

/-- NOP keeps what is the host's, and PIX_OUT (R331). -/
theorem execNop_keeps {s t : State} (h : execNop s = .next t) : KeepsHost s t ∧ t.pixOut = s.pixOut := by
  unfold execNop at h
  split at h
  · cases h
    exact ⟨KeepsHost.refl s, rfl⟩
  · cases h
    rw [State.spend_frame _ |>.1]
    refine ⟨(engineRun_keepsHost (fun _ u => ?_) _ s).trans (State.spend_keepsHost _), ?_⟩
    · exact u.settled_keepsHost.trans (KeepsHost.update _ ..)
    · exact engineRun_invariant (g := fun _ u => u.settled.complete) (P := fun u => u.pixOut = s.pixOut)
        (fun _ u _ hu => u.settled_pixOut.trans hu) _ s rfl

theorem runJob_keeps {op : JobOp} {c : Cmd} {s t : State} (h : runJob op c s = .next t) :
    KeepsHost s t ∧ (t.pixOut = s.pixOut ∨ ImmDone c t) := by
  unfold runJob at h
  split at h
  · cases h
    exact ⟨KeepsHost.refl s, .inl rfl⟩
  · next j _ =>
    cases h
    refine ⟨(engineRun_keepsHost (engineStep_keepsHost op c) _ s).trans (State.spend_keepsHost _), ?_⟩
    obtain ⟨hp, hj, hd⟩ := (engineRun (engineStep op c) (s.slots (stepsLeft op c s.cfg j)) s).spend_frame
    rw [hp, ImmDone, hj, hd]
    exact engineRun_pixOut op c _ s

/-- Settles O31: a run of engine steps, each of which keeps what is the host's. -/
theorem commandsKeepRegisters : Obligations.CommandsKeepRegisters := by
  intro i s t h
  have key : KeepsHost s t ∧ (t.pixOut = s.pixOut ∨ ∃ c, i.cmd? = some c ∧ ImmDone c t) := by
    cases hi : jobOf i with
    | none =>
      rw [jobOf_none hi] at h
      exact (execNop_keeps h).imp_right .inl
    | some p =>
      rw [exec_eq_runJob (op := p.1) (c := p.2) hi] at h
      exact (runJob_keeps h).imp_right (Or.imp_right fun hd => ⟨p.2, cmd?_of_jobOf (op := p.1) hi, hd⟩)
  obtain ⟨⟨hcfg, hid, hie, hregs, hread, hown, hplan, hdests, hpast, hpd, hdoom, hdirty, hstale⟩, hpix⟩ := key
  refine ⟨⟨hcfg, hid, hie, hregs, hread, hown, hplan, hdests, hpast, hpd, hdoom, hdirty, hstale⟩, ?_⟩
  exact hpix.imp_right fun ⟨c, hc, ⟨f, hf, himm⟩, hend⟩ => ⟨⟨c, f, hc, hf, himm⟩, hend⟩

end Sys2Proof.Machine
end

section
/-! PROOFS. Single-pixel jobs (R330): a legal IMM job takes the check step and the completion; then EXPAND and STRIP by
memory channel (O12), and the packed words as sums of their fields (O13). -/

namespace Sys2Proof.Machine

/-! ### Runs to the end of the job -/

/-- Some number of engine steps leads from `s` to `t`, where the job is over. -/
def Finishes (g : Job → State → State) (s t : State) : Prop := ∃ n, engineRun g n s = t ∧ t.job = none

theorem Finishes.ended {g : Job → State → State} {s : State} (h : s.job = none) : Finishes g s s := ⟨0, rfl, h⟩

theorem Finishes.step {g : Job → State → State} {s t : State} {j : Job} (hj : s.job = some j)
    (h : Finishes g (g j s) t) : Finishes g s t := by
  obtain ⟨n, hn, ht⟩ := h
  exact ⟨n + 1, (engineRun_some hj n).trans hn, ht⟩

theorem Finishes.last {g : Job → State → State} {s t : State} {j : Job} (hj : s.job = some j) (h : g j s = t)
    (ht : t.job = none) : Finishes g s t :=
  .step hj (h ▸ .ended (h ▸ ht))

theorem engineRun_add (g : Job → State → State) :
    ∀ (m n : Nat) (s : State), engineRun g (m + n) s = engineRun g n (engineRun g m s)
  | 0, n, s => by rw [Nat.zero_add, engineRun]
  | m + 1, n, s => by
    cases hj : s.job with
    | none => rw [engineRun_none hj, engineRun_none hj, engineRun_none hj]
    | some j => rw [Nat.add_right_comm, engineRun_some hj, engineRun_some hj, engineRun_add g m n]

/-- The end of the job does not rest on how many steps were granted. -/
theorem Finishes.unique {g : Job → State → State} {s t u : State} (ht : Finishes g s t) (hu : Finishes g s u) : t = u := by
  obtain ⟨m, rfl, hm⟩ := ht
  obtain ⟨n, rfl, hn⟩ := hu
  rw [← engineRun_none hm n, ← engineRun_none hn m, ← engineRun_add, ← engineRun_add, Nat.add_comm]

/-- With no host action to come, a command's meaning is the end of its job. -/
theorem exec_of_finishes {i : Instr} {op : JobOp} {c : Cmd} (hi : jobOf i = some (op, c)) {s t : State} {j : Job}
    (hs : Started s j) (h : Finishes (engineStep op c) s t) : exec i s = .next t := by
  obtain ⟨n, hexec, hend⟩ := exec_alone hi (hs.running ▸ Option.some_ne_none j) hs.alone
  rw [hexec, Finishes.unique ⟨n, rfl, hend⟩ h]

/-! ### The check step of a job that is about to run -/

/-- A passed check (R320): the next phase, and every pixel before the traversal. -/
theorem engineStep_check {op : JobOp} {c : Cmd} {f : Fields} {j : Job} {s : State} (hf : resolve c = some f)
    (hp : j.phase = .check) (hok : firstErr op (ctxOf s j f) = none) :
    engineStep op c j s = { s with job := some { j with
      phase := nextPhase op (ctxOf s j f) s.lut
      cursor := if addressed (ctxOf s j f) then cursorOf op (ctxOf s j f) else [] } } := by
  unfold ctxOf at hok ⊢
  simp only [engineStep, hf, hp, checkStep, hok]

theorem addressed_of_imm {x : JobCtx} (h : x.f.imm = true) : addressed x = false := by simp [addressed, h]

/-- A legal IMM job with no register to check passes every check. -/
theorem firstErr_imm {op : JobOp} {x : JobCtx} (hl : op.legal x = true) (hp : checkedParams op x = [])
    (ha : op.alpha x = true) (himm : x.f.imm = true) : firstErr op x = none := by
  simp [firstErr, hl, hp, paramErr, ha, addressed_of_imm himm]

theorem checkedParams_nil {op : JobOp} {x : JobCtx} (ht : x.f.tf = .none) (hp : op.params = []) :
    checkedParams op x = [] := by
  simp [checkedParams, ht, hp]

theorem engineStep_finish {op : JobOp} {c : Cmd} {f : Fields} {j : Job} (s : State) (hf : resolve c = some f)
    (hp : j.phase = .finish) : engineStep op c j s = finishStep op (ctxOf s j f) s := by
  simp only [engineStep, hf, hp, ctxOf]

/-- R522: the completion of an IMM job, whatever its record holds. -/
theorem finishStep_imm {op : JobOp} {x : JobCtx} (himm : x.f.imm = true) (s : State) (k : Option Job) :
    finishStep op x { s with job := k } = immDone s (immResult op x) := by
  rw [finishStep, himm, if_pos rfl, State.settled_update s k s.lut s.pixOut]
  simp [State.complete, immDone]

/-- R330, R522: an IMM job whose checks pass ends with its result in PIX_OUT. -/
theorem exec_imm {i : Instr} {op : JobOp} {c : Cmd} {f : Fields} {s : State} {j : Job} (hi : jobOf i = some (op, c))
    (hs : Started s j) (hf : resolve c = some f) (himm : f.imm = true) (hok : firstErr op (ctxOf s j f) = none) :
    exec i s = .next (immDone s (immResult op (ctxOf s j f))) := by
  have hadr : addressed (ctxOf s j f) = false := addressed_of_imm himm
  have hcheck : engineStep op c j s = { s with job := some { j with phase := .finish, cursor := [] } } := by
    rw [engineStep_check hf hs.unchecked hok, nextPhase, hadr]
    rfl
  refine exec_of_finishes hi hs (.step hs.running ?_)
  rw [hcheck]
  exact .last rfl ((engineStep_finish _ hf rfl).trans (finishStep_imm (x := ctxOf s j f) himm s _)) (immDone_job s _)

/-! ### Source elements by slot -/

/-- The source element of an IMM job in slot `k` (R321). -/
def immSlot (op : JobOp) (x : JobCtx) (k : Nat) : Word := ((op.srcElems x)[k]?.map fun e => e.imm x.args).getD 0#32

theorem immResult_eq (op : JobOp) (x : JobCtx) :
    immResult op x = (List.zip (op.dstElems x) (op.body x (immSlot op x))).foldl (fun q p => q.set p.1.pix p.2) Quad.zero :=
  rfl

/-! ### EXPAND and STRIP (R402, R403) -/

theorem immResult_expand {x : JobCtx} (hd : nch x.f.dl = 4) :
    let out := expandChan x.f.pos (immSlot expandOp x)
      (if x.f.am = .const then rawAlpha x.f.st x.args else immSlot expandOp x 3)
    immResult expandOp x = ⟨out 0, out 1, out 2, out 3⟩ := by
  rw [immResult_eq]
  simp only [expandOp, channels, hd]
  rfl

theorem immSlot_expand {x : JobCtx} (hs : nch x.f.sl = 3) {k : Nat} (hk : k < 3) :
    immSlot expandOp x k = immElem x.args x.f.st k := by
  unfold immSlot
  simp only [expandOp, channels, hs]
  interval_cases k <;> rfl

/-- R402: under PASS the new element is PIX_IN3, in the slot after the source channels. -/
theorem immSlot_expand_new {x : JobCtx} (hs : nch x.f.sl = 3) (ha : x.f.am = .pass) :
    immSlot expandOp x 3 = immElem x.args x.f.st 3 := by
  unfold immSlot
  simp only [expandOp, channels, hs, ha]
  rfl

/-- No channel of the result reads a source channel that the pixel has not. -/
theorem expandChan_congr {pos j : Nat} (hp : pos < 4) (hj : j < 4) {v w : Nat → Word} (h : ∀ k, k < 3 → v k = w k)
    (n : Word) : expandChan pos v n j = expandChan pos w n j := by
  unfold expandChan
  split
  · exact h j (by omega)
  · split
    · rfl
    · exact h (j - 1) (by omega)

theorem immResult_strip {x : JobCtx} (hd : nch x.f.dl = 3) :
    let out := fun k => immElem x.args x.f.st (stripChan x.f.pos k)
    immResult stripOp x = ⟨out 0, out 1, out 2, 0#32⟩ := by
  have hslot : ∀ k, k < 3 → immSlot stripOp x k = immElem x.args x.f.st (stripChan x.f.pos k) := fun k hk => by
    simp only [immSlot, stripOp, hd]
    interval_cases k <;> rfl
  rw [immResult_eq]
  simp only [stripOp, channels, hd]
  exact congrArg₂ (fun a (p : Word × Word) => (⟨a, p.1, p.2, 0#32⟩ : Quad)) (hslot 0 (by decide))
    (congrArg₂ Prod.mk (hslot 1 (by decide)) (hslot 2 (by decide)))

theorem resolve_pos_lt {c : Cmd} {f : Fields} (h : resolve c = some f) : f.pos < 4 := by
  unfold resolve at h
  split at h
  · cases h
    exact c.pos.isLt
  · cases h

/-- Settles O12: the checks pass, and each result channel is a source channel by position. -/
theorem expandStripSinglePixel : Obligations.ExpandStripSinglePixel := by
  intro s j c f hs hf himm hdt htf hsp v
  constructor
  · intro hl ham n out
    have hwith : withAlpha f.sl = some f.dl := by rcases hl with ⟨h, h'⟩ | ⟨h, h'⟩ <;> rw [h, h'] <;> rfl
    have hns : nch f.sl = 3 := by rcases hl with ⟨h, -⟩ | ⟨h, -⟩ <;> rw [h] <;> rfl
    have hnd : nch f.dl = 4 := by rcases hl with ⟨-, h⟩ | ⟨-, h⟩ <;> rw [h] <;> rfl
    have hok : firstErr expandOp (ctxOf s j f) = none :=
      firstErr_imm (by simp [expandOp, ctxOf, sameType, layoutFields, hwith, hdt, htf, hsp]) (checkedParams_nil htf rfl)
        (by simp [expandOp, ctxOf, ham]) himm
    have hnew : (if f.am = .const then rawAlpha f.st j.args else immSlot expandOp (ctxOf s j f) 3) = n := by
      cases ha : f.am with
      | none => exact absurd ha ham
      | pass =>
        simp only [n, ha, reduceCtorEq, if_false]
        exact immSlot_expand_new hns ha
      | const => simp only [n, ha, if_true]
    have hout : ∀ k, k < 4 → expandChan f.pos (immSlot expandOp (ctxOf s j f))
        (if f.am = .const then rawAlpha f.st j.args else immSlot expandOp (ctxOf s j f) 3) k = out k := fun k hk => by
      rw [hnew]
      exact expandChan_congr (resolve_pos_lt hf) hk (fun k hk => immSlot_expand hns hk) n
    rw [exec_imm (i := .expand c) rfl hs hf himm hok, immResult_expand hnd, ← hout 0 (by decide), ← hout 1 (by decide),
      ← hout 2 (by decide), ← hout 3 (by decide)]
    rfl
  · intro hl ham out
    have hwith : withAlpha f.dl = some f.sl := by rcases hl with ⟨h, h'⟩ | ⟨h, h'⟩ <;> rw [h, h'] <;> rfl
    have hnd : nch f.dl = 3 := by rcases hl with ⟨-, h⟩ | ⟨-, h⟩ <;> rw [h] <;> rfl
    have hok : firstErr stripOp (ctxOf s j f) = none :=
      firstErr_imm (by simp [stripOp, ctxOf, sameType, layoutFields, hwith, hdt, htf, hsp]) (checkedParams_nil htf rfl)
        (by simp [stripOp, ctxOf, ham]) himm
    rw [exec_imm (i := .strip c) rfl hs hf himm hok, immResult_strip hnd]
    rfl

/-! ### The packed words (R406, R407, R409, R411) -/

/-- A field put above a word that lies below it adds to it. -/
theorem toNat_or_shiftLeft {lo hi : Word} {n : Nat} (hlo : lo.toNat < 2 ^ n) (hhi : hi.toNat * 2 ^ n < 2 ^ 32) :
    (lo ||| hi <<< n).toNat = lo.toNat + hi.toNat * 2 ^ n := by
  rw [BitVec.toNat_or, BitVec.toNat_shiftLeft, Nat.shiftLeft_eq, Nat.mod_eq_of_lt hhi, Nat.or_comm, ← Nat.shiftLeft_eq,
    ← Nat.shiftLeft_add_eq_or_of_lt hlo, Nat.add_comm]

theorem lowBytes_lt (n : Nat) (w : Word) : (lowBytes n w).toNat < 2 ^ (8 * n) :=
  (Nat.mod_le _ _).trans_lt (Nat.mod_lt _ (Nat.two_pow_pos _))

theorem toNat_shiftRight (w : Word) (n : Nat) : (w >>> n).toNat = w.toNat / 2 ^ n := by
  rw [BitVec.toNat_ushiftRight, Nat.shiftRight_eq_div_pow]

theorem pack565Word_eq {r g b : Word} (hr : r.toNat < 2 ^ 8) (hg : g.toNat < 2 ^ 8) (hb : b.toNat < 2 ^ 8) :
    pack565Word r g b = BitVec.ofNat 32 (r.toNat / 2 ^ 3 * 2 ^ 11 + g.toNat / 2 ^ 2 * 2 ^ 5 + b.toNat / 2 ^ 3) := by
  have hswap : pack565Word r g b = b >>> 3 ||| (g >>> 2) <<< 5 ||| (r >>> 3) <<< 11 := by
    rw [pack565Word, BitVec.or_comm, BitVec.or_comm ((r >>> 3) <<< 11), BitVec.or_assoc]
  have hlow : (b >>> 3 ||| (g >>> 2) <<< 5).toNat = b.toNat / 2 ^ 3 + g.toNat / 2 ^ 2 * 2 ^ 5 := by
    rw [toNat_or_shiftLeft, toNat_shiftRight, toNat_shiftRight] <;> rw [toNat_shiftRight] <;> omega
  apply BitVec.eq_of_toNat_eq
  rw [hswap, toNat_or_shiftLeft, hlow, toNat_shiftRight, BitVec.toNat_ofNat]
  · omega
  · rw [hlow]; omega
  · rw [toNat_shiftRight]; omega

/-- R411: the ten bits of a colour sample: shifted up from U8, the high bits of U16. -/
theorem tenBits_toNat {t : ElemType} (ht : t ≠ .f32) {w : Word} (hw : w.toNat < 2 ^ (8 * elemSize t)) :
    (tenBits t w).toNat = (if t = .u8 then w.toNat * 2 ^ 2 else w.toNat / 2 ^ 6) ∧ (tenBits t w).toNat < 2 ^ 10 := by
  cases t with
  | f32 => exact absurd rfl ht
  | u8 =>
    simp only [elemSize] at hw
    simp only [tenBits, BitVec.toNat_shiftLeft, Nat.shiftLeft_eq, if_true]
    omega
  | u16 =>
    simp only [elemSize] at hw
    simp only [tenBits, toNat_shiftRight, reduceCtorEq, if_false, true_and]
    omega

theorem twoBits_toNat {t : ElemType} (ht : t ≠ .f32) {w : Word} (hw : w.toNat < 2 ^ (8 * elemSize t)) :
    (twoBits t w).toNat = (if t = .u8 then w.toNat / 2 ^ 6 else w.toNat / 2 ^ 14) ∧ (twoBits t w).toNat < 2 ^ 2 := by
  cases t with
  | f32 => exact absurd rfl ht
  | u8 =>
    simp only [elemSize] at hw
    simp only [twoBits, toNat_shiftRight, if_true, true_and]
    omega
  | u16 =>
    simp only [elemSize] at hw
    simp only [twoBits, toNat_shiftRight, reduceCtorEq, if_false, true_and]
    omega

theorem pack1010102Word_eq {t : ElemType} {r g b a : Word} (hr : (tenBits t r).toNat < 2 ^ 10)
    (hg : (tenBits t g).toNat < 2 ^ 10) (hb : (tenBits t b).toNat < 2 ^ 10) (ha : (twoBits t a).toNat < 2 ^ 2) :
    pack1010102Word t r g b a = BitVec.ofNat 32 ((tenBits t r).toNat + (tenBits t g).toNat * 2 ^ 10
      + (tenBits t b).toNat * 2 ^ 20 + (twoBits t a).toNat * 2 ^ 30) := by
  have h2 := toNat_or_shiftLeft (n := 10) (lo := tenBits t r) (hi := tenBits t g) (by omega) (by omega)
  have h3 := toNat_or_shiftLeft (n := 20) (lo := tenBits t r ||| tenBits t g <<< 10) (hi := tenBits t b) (by omega) (by omega)
  have h4 := toNat_or_shiftLeft (n := 30) (lo := tenBits t r ||| tenBits t g <<< 10 ||| tenBits t b <<< 20)
    (hi := twoBits t a) (by omega) (by omega)
  apply BitVec.eq_of_toNat_eq
  rw [pack1010102Word, h4, BitVec.toNat_ofNat]
  omega

/-! ### PACK565 and PACK1010102 -/

theorem immResult_pack565 (x : JobCtx) (ht : x.f.st = .u8) : immResult pack565Op x
    = ⟨pack565Word (immRgb x.args x.f).c0 (immRgb x.args x.f).c1 (immRgb x.args x.f).c2, 0#32, 0#32, 0#32⟩ := by
  simp only [immRgb, ht]
  rfl

/-- R411: the alpha sample of PACK1010102. -/
def packAlpha (a : Regs) (f : Fields) : Word := if f.am = .const then rawAlpha f.st a else immElem a f.st 3

theorem immResult_pack1010102 {x : JobCtx} (ha : x.f.am = .pass ∨ x.f.am = .const) : immResult pack1010102Op x
    = ⟨pack1010102Word x.f.st (immRgb x.args x.f).c0 (immRgb x.args x.f).c1 (immRgb x.args x.f).c2
        (packAlpha x.args x.f), 0#32, 0#32, 0#32⟩ := by
  rw [immResult_eq]
  rcases ha with ha | ha <;>
    simp only [pack1010102Op, polSrcs, namedSrcs, immSlot, packAlpha, ha] <;> rfl

theorem packAlpha_lt (a : Regs) (f : Fields) : (packAlpha a f).toNat < 2 ^ (8 * elemSize f.st) := by
  unfold packAlpha
  split <;> exact lowBytes_lt _ _

/-- Settles O13: the checks pass, and the packed word is the sum of its fields. -/
theorem packSinglePixel : Obligations.PackSinglePixel := by
  intro s j c f hs hf himm hdl hdt htf hplain v
  obtain ⟨hpos, hsp⟩ := hplain
  constructor
  · intro hst ham
    have hok : firstErr pack565Op (ctxOf s j f) = none :=
      firstErr_imm (by simp [pack565Op, ctxOf, zeroSide, packFields, plainFields, hst, hdl, hdt, htf, hpos, hsp])
        (checkedParams_nil htf rfl) (by simp [pack565Op, ctxOf, ham]) himm
    have hlt : ∀ k, (immElem j.args f.st k).toNat < 2 ^ 8 := fun k => by
      rw [hst]
      exact lowBytes_lt _ _
    rw [exec_imm (i := .pack565 c) rfl hs hf himm hok, immResult_pack565 _ hst]
    exact congrArg (fun w => Host.Outcome.next (immDone s ⟨w, 0#32, 0#32, 0#32⟩))
      (pack565Word_eq (hlt _) (hlt _) (hlt _))
  · intro hst ham ten al two
    have halpha : pack1010102Op.alpha (ctxOf s j f) = true := by
      rcases ham with ⟨h, h'⟩ | h
      · simp [pack1010102Op, ctxOf, h, h']
      · simp [pack1010102Op, ctxOf, h]
    have hok : firstErr pack1010102Op (ctxOf s j f) = none :=
      firstErr_imm (by simp [pack1010102Op, ctxOf, zeroSide, packFields, plainFields, hst, hdl, hdt, htf, hpos, hsp])
        (checkedParams_nil htf rfl) halpha himm
    have hten : ∀ k, (tenBits f.st (immElem j.args f.st k)).toNat = ten (immElem j.args f.st k)
        ∧ (tenBits f.st (immElem j.args f.st k)).toNat < 2 ^ 10 := fun k => tenBits_toNat hst (lowBytes_lt _ _)
    have htwo : (twoBits f.st al).toNat = two ∧ (twoBits f.st al).toNat < 2 ^ 2 :=
      twoBits_toNat hst (packAlpha_lt j.args f)
    have hword := pack1010102Word_eq (hten (rOff f.sl)).2 (hten (gOff f.sl)).2 (hten (bOff f.sl)).2 htwo.2
    rw [(hten _).1, (hten _).1, (hten _).1, htwo.1] at hword
    rw [exec_imm (i := .pack1010102 c) rfl hs hf himm hok, immResult_pack1010102 (ham.imp_left And.left)]
    exact congrArg (fun w => Host.Outcome.next (immDone s ⟨w, 0#32, 0#32, 0#32⟩)) hword

end Sys2Proof.Machine
end

section
/-! PROOFS. Buffer jobs of one pixel in row-major order: the reads one by one, the writes one by one, the completion; then
DEINTERLEAVE and INTERLEAVE by plane (O16). -/

namespace Sys2Proof.Machine

/-! ### The accesses of the first pixel, in their order -/

/-- `s` in the traversal of a job of latched registers `a` with the pixels `cur` left. -/
def State.traversing (s : State) (a : Regs) (cur : List Pixel) : State := { s with job := some ⟨a, .traverse, cur⟩ }

/-- The job record plays no part in the completion. -/
theorem complete_settled_traversing (s : State) (a : Regs) (cur : List Pixel) :
    (s.traversing a cur).settled.complete = s.settled.complete := by
  rw [State.traversing, State.settled_update s _ s.lut s.pixOut]
  simp [State.complete]

section
variable {op : JobOp} {c : Cmd} {f : Fields} {a : Regs} {s : State} {px : Pixel} {others : List Pixel}

/-- With no choice on the tape, the first pixel of the cursor moves (R375). -/
theorem engineStep_firstPixel (hf : resolve c = some f) (ht : s.env.tape = []) :
    engineStep op c ⟨a, .traverse, px :: others⟩ (s.traversing a (px :: others))
      = pixelStep op ⟨s.cfg, a, f⟩ ⟨a, .traverse, px :: others⟩ 0 px others (s.traversing a (px :: others)) := by
  have hs : { s.traversing a (px :: others) with env := { s.env with tape := [] } } = s.traversing a (px :: others) := by
    rw [← ht]
    rfl
  have htt : (s.traversing a (px :: others)).env.tape = [] := ht
  simp only [engineStep, hf, accessStep, htt, List.headD_nil, pick_zero_cons, List.tail_nil]
  exact congrArg (pixelStep op ⟨s.cfg, a, f⟩ _ 0 px others) hs

theorem engineStep_read (hf : resolve c = some f) (ht : s.env.tape = []) {k : Nat} {r : Access}
    {todo : List (Nat × Access)} {got : List (Nat × Word)} (hst : px.stage = .reading ((k, r) :: todo) got)
    (hok : busFault s.cfg r false = false) :
    engineStep op c ⟨a, .traverse, px :: others⟩ (s.traversing a (px :: others))
      = s.traversing a
          ({ px with stage := afterRead op ⟨s.cfg, a, f⟩ px todo ((k, s.mem.read r) :: got) } :: others) := by
  rw [engineStep_firstPixel hf ht, pixelStep, hst]
  simp only [pick_zero_cons]
  exact if_neg (by rw [State.traversing, hok]; exact Bool.false_ne_true)

/-- A pixel with nothing to read turns to its writes. -/
theorem engineStep_readNothing (hf : resolve c = some f) (ht : s.env.tape = []) {got : List (Nat × Word)}
    (hst : px.stage = .reading [] got) :
    engineStep op c ⟨a, .traverse, px :: others⟩ (s.traversing a (px :: others))
      = s.traversing a ({ px with stage := afterRead op ⟨s.cfg, a, f⟩ px [] got } :: others) := by
  rw [engineStep_firstPixel hf ht, pixelStep, hst]
  simp only [pick_nil]
  rfl

theorem engineStep_write (hf : resolve c = some f) (ht : s.env.tape = []) {w : Store} {left : List Store}
    (hst : px.stage = .writing (w :: left)) (hok : busFault s.cfg w.access true = false) :
    engineStep op c ⟨a, .traverse, px :: others⟩ (s.traversing a (px :: others))
      = (s.storeElem w).traversing a (afterWrite px left others) := by
  rw [engineStep_firstPixel hf ht, pixelStep, hst]
  simp only [pick_zero_cons]
  exact if_neg (by rw [State.traversing, hok]; exact Bool.false_ne_true)

/-- A pixel with nothing to write is done. -/
theorem engineStep_writeNothing (hf : resolve c = some f) (ht : s.env.tape = []) (hst : px.stage = .writing []) :
    engineStep op c ⟨a, .traverse, px :: others⟩ (s.traversing a (px :: others)) = s.traversing a others := by
  rw [engineStep_firstPixel hf ht, pixelStep, hst]
  simp only [pick_nil]
  rfl

/-- A traversal with no pixel left ends the job (R522). -/
theorem engineStep_noPixel (hf : resolve c = some f) (s : State) :
    engineStep op c ⟨a, .traverse, []⟩ (s.traversing a []) = s.settled.complete := by
  simp only [engineStep, hf, accessStep, pick_nil]
  exact complete_settled_traversing s a []

end

/-! ### One pixel to the end of the job -/

section
variable {op : JobOp} {c : Cmd} {f : Fields} {a : Regs} (hf : resolve c = some f) (q y : Nat)
include hf

theorem finishes_noPixel (s : State) : Finishes (engineStep op c) (s.traversing a []) s.settled.complete :=
  .last rfl (engineStep_noPixel hf s) rfl

/-- The writes of the last pixel land in their order, and the job ends. -/
theorem finishes_writes : ∀ (left : List Store) (s : State), s.env.tape = [] →
    (∀ w ∈ left, busFault s.cfg w.access true = false) →
    Finishes (engineStep op c) (s.traversing a [⟨q, y, .writing left⟩]) (left.foldl State.storeElem s).settled.complete
  | [], s, ht, _ => by
    refine .step rfl ?_
    rw [engineStep_writeNothing hf ht rfl]
    exact finishes_noPixel hf s
  | w :: rest, s, ht, hw => by
    obtain ⟨hok, hrest⟩ := List.forall_mem_cons.mp hw
    refine .step rfl ?_
    rw [engineStep_write hf ht rfl hok]
    cases rest with
    | nil => exact finishes_noPixel hf (s.storeElem w)
    | cons v l => exact finishes_writes (v :: l) (s.storeElem w) ht hrest

/-- The reads of the last pixel take their elements in their order, and the writes follow (R111). -/
theorem finishes_reads {s t : State} (ht : s.env.tape = []) : ∀ (todo : List (Nat × Access)) (got : List (Nat × Word)),
    (∀ p ∈ todo, busFault s.cfg p.2 false = false) →
    Finishes (engineStep op c) (s.traversing a [⟨q, y, .writing (pixelStores op ⟨s.cfg, a, f⟩ q y
      (slotValue ((todo.map fun p => (p.1, s.mem.read p.2)).reverse ++ got)))⟩]) t →
    Finishes (engineStep op c) (s.traversing a [⟨q, y, .reading todo got⟩]) t
  | [], got, _, h => by
    refine .step rfl ?_
    rw [engineStep_readNothing hf ht rfl]
    exact h
  | (k, r) :: rest, got, hr, h => by
    obtain ⟨hok, hrest⟩ := List.forall_mem_cons.mp hr
    refine .step rfl ?_
    rw [engineStep_read hf ht rfl hok]
    rw [List.map_cons, List.reverse_cons, List.append_assoc] at h
    cases rest with
    | nil => exact h
    | cons p l => exact finishes_reads ht (p :: l) _ hrest h

end

/-! ### The elements read, by slot -/

/-- The slots of the elements read start at the first one's. -/
theorem slotValue_below (m : Memory) (q y : Nat) {k : Nat} : ∀ (es : List ElemRef) (n : Nat) (got : List (Nat × Word)),
    k < n → slotValue (((es.zipIdx n).map fun p => (p.2, m.read (p.1.access q y))).reverse ++ got) k = slotValue got k
  | [], _, _, _ => rfl
  | e :: es, n, got, h => by
    rw [List.zipIdx_cons, List.map_cons, List.reverse_cons, List.append_assoc, slotValue_below m q y es (n + 1) _ (by omega)]
    exact if_neg (by omega)

theorem slotValue_read (m : Memory) (q y : Nat) : ∀ (es : List ElemRef) (n : Nat) (got : List (Nat × Word)) (k : Nat),
    slotValue (((es.zipIdx n).map fun p => (p.2, m.read (p.1.access q y))).reverse ++ got) (n + k)
      = (es[k]?.map fun e => m.read (e.access q y)).getD (slotValue got (n + k))
  | [], _, _, _ => rfl
  | e :: es, n, got, 0 => by
    rw [List.zipIdx_cons, List.map_cons, List.reverse_cons, List.append_assoc, slotValue_below m q y es (n + 1) _ (by omega)]
    exact if_pos rfl
  | e :: es, n, got, k + 1 => by
    rw [List.zipIdx_cons, List.map_cons, List.reverse_cons, List.append_assoc, show n + (k + 1) = n + 1 + k by omega,
      slotValue_read m q y es (n + 1)]
    congr 1
    exact if_neg (by omega)

/-- What a pixel has read when its reads are over. -/
theorem slotValue_pixelReads (op : JobOp) (x : JobCtx) (m : Memory) (q y : Nat) :
    slotValue (((pixelReads op x q y).map fun p => (p.1, m.read p.2)).reverse ++ []) = memElems op x m q y := by
  funext k
  have h := slotValue_read m q y (op.srcElems x) 0 [] k
  rw [Nat.zero_add] at h
  rw [pixelReads, List.map_map]
  refine h.trans ?_
  unfold memElems
  cases (op.srcElems x)[k]? <;> rfl

/-- A write of a pixel is one of a destination element. -/
theorem mem_pixelStores {op : JobOp} {x : JobCtx} {q y : Nat} {v : Nat → Word} {w : Store}
    (h : w ∈ pixelStores op x q y v) : ∃ e ∈ op.dstElems x, ∃ u, w = ⟨e.addr q y, e.buf.unit, u⟩ := by
  rw [pixelStores, ← List.map_uncurry_zip_eq_zipWith] at h
  obtain ⟨⟨e, u⟩, hz, rfl⟩ := List.mem_map.mp h
  exact ⟨e, (List.of_mem_zip hz).1, u, rfl⟩

/-! ### The job -/

theorem cursorOf_onePixel {op : JobOp} {x : JobCtx} (hw : x.args.width = 1#32) (hh : x.args.height = 1#32) :
    cursorOf op x = [newPixel op x 0 0] := by
  rw [cursorOf, rowMajor, hw, hh]
  rfl

/-- A passed check of a buffer job with pixels, and the table fill if the job needs it, lead to the traversal. -/
theorem finishes_of_traversing {op : JobOp} {c : Cmd} {f : Fields} {s t : State} {j : Job} (hs : Started s j)
    (hf : resolve c = some f) (hx : addressed (ctxOf s j f) = true) (hok : firstErr op (ctxOf s j f) = none)
    (h : Finishes (engineStep op c)
      (State.traversing { s with lut := lutAfter op (ctxOf s j f) s.lut } j.args (cursorOf op (ctxOf s j f))) t) :
    Finishes (engineStep op c) s t := by
  refine .step hs.running ?_
  rw [engineStep_check hf hs.unchecked hok, nextPhase, hx]
  unfold lutAfter at h
  cases hfill : needsFill op (ctxOf s j f) s.lut with
  | false =>
    rw [hfill] at h
    exact h
  | true =>
    rw [hfill] at h
    refine .step rfl ?_
    simp only [engineStep, hf]
    exact h

/-- A 1x1 buffer job whose checks pass and whose accesses do not fault (R320, R321, R329, R522). -/
theorem exec_onePixel {i : Instr} {op : JobOp} {c : Cmd} {f : Fields} {s : State} {j : Job} (hi : jobOf i = some (op, c))
    (hs : Started s j) (hf : resolve c = some f) (himm : f.imm = false) (ht : s.env.tape = [])
    (hw : j.args.width = 1#32) (hh : j.args.height = 1#32) (hok : firstErr op (ctxOf s j f) = none)
    (hread : ∀ e ∈ op.srcElems (ctxOf s j f), busFault s.cfg (e.access 0 0) false = false)
    (hwrite : ∀ e ∈ op.dstElems (ctxOf s j f), busFault s.cfg (e.access 0 0) true = false) :
    exec i s = .next (State.complete (State.settled
      ((pixelStores op (ctxOf s j f) 0 0 (memElems op (ctxOf s j f) s.mem 0 0)).foldl State.storeElem
        { s with lut := lutAfter op (ctxOf s j f) s.lut }))) := by
  have hx : addressed (ctxOf s j f) = true := by simp [addressed, ctxOf, himm, hw, hh]
  refine exec_of_finishes hi hs (finishes_of_traversing hs hf hx hok ?_)
  rw [cursorOf_onePixel hw hh]
  let u : State := { s with lut := lutAfter op (ctxOf s j f) s.lut }
  refine finishes_reads (s := u) hf 0 0 ht (pixelReads op (ctxOf s j f) 0 0) [] (fun p hp => ?_) ?_
  · obtain ⟨z, hz, rfl⟩ := List.mem_map.mp hp
    exact hread z.1 (List.fst_mem_of_mem_zipIdx hz)
  · rw [slotValue_pixelReads]
    refine finishes_writes hf 0 0 _ u ht fun w hw => ?_
    obtain ⟨e, he, v, rfl⟩ := mem_pixelStores hw
    exact hwrite e he

/-! ### Accesses that cannot fault -/

/-- Where the platform marks no access, only one that leaves the address space faults. -/
theorem busFault_faultFree {cfg : Config} (h : FaultFree cfg) {r : Access} (hr : r.addr + r.size ≤ spaceSize cfg.addrW)
    (isWrite : Bool) : busFault cfg r isWrite = false := by
  obtain ⟨hbus, hwin⟩ := h
  simp [busFault, inWindow, hbus, hwin, hr]

/-- R517: the check passes only where every span ends within the address space. -/
theorem rangeErr_none {space w h : Nat} : ∀ {l : List BufArg}, rangeErr space w h l = none →
    ∀ b ∈ l, spanEnd w h b ≤ space
  | [], _ => nofun
  | b :: rest, hn => by
    rw [rangeErr] at hn
    split at hn
    · cases hn
    · next hb => exact List.forall_mem_cons.mpr ⟨Nat.not_lt.mp hb, rangeErr_none hn⟩

theorem spanEnd_le_of_addressErr_none {op : JobOp} {x : JobCtx} (h : addressErr op x = none) {b : BufArg}
    (hb : b ∈ arguments op x) : spanEnd x.args.width.toNat x.args.height.toNat b ≤ spaceSize x.cfg.addrW := by
  refine rangeErr_none ?_ b hb
  unfold addressErr at h
  dsimp only at h
  split at h
  · cases h
  · split at h
    · cases h
    · split at h
      · cases h
      · assumption

/-- R105, R106: an element of a pixel ends within the span of its buffer. -/
theorem ElemRef.end_le_spanEnd {e : ElemRef} (he : e.inPixel = true) {w h q y : Nat} (hq : q < w) (hy : y < h) :
    e.addr q y + e.buf.unit ≤ spanEnd w h e.buf := by
  have hrow : y * e.buf.stride ≤ (h - 1) * e.buf.stride := Nat.mul_le_mul_right _ (by omega)
  have hcol : (q + 1) * e.buf.bpp ≤ w * e.buf.bpp := Nat.mul_le_mul_right _ hq
  have hchan : (e.chan + 1) * e.buf.unit ≤ e.buf.bpp := of_decide_eq_true he
  rw [Nat.add_one_mul] at hcol hchan
  unfold ElemRef.addr spanEnd
  omega

/-- What a passed check says of its parts (R511). -/
theorem firstErr_none {op : JobOp} {x : JobCtx} (h : firstErr op x = none) :
    op.legal x = true ∧ op.alpha x = true ∧ (addressed x = true → addressErr op x = none) := by
  unfold firstErr at h
  split at h
  · cases h
  · next hl =>
    split at h
    · cases h
    · split at h
      · cases h
      · next ha =>
        refine ⟨by simpa using hl, by simpa using ha, fun hx => ?_⟩
        rwa [if_pos hx] at h

/-- A 1x1 buffer job whose checks pass, where the platform marks no access and every element lies in an argument. -/
theorem exec_onePixel_faultFree {i : Instr} {op : JobOp} {c : Cmd} {f : Fields} {s : State} {j : Job}
    (hi : jobOf i = some (op, c)) (hs : Started s j) (hf : resolve c = some f) (himm : f.imm = false)
    (ht : s.env.tape = []) (hfree : FaultFree s.cfg) (hw : j.args.width = 1#32) (hh : j.args.height = 1#32)
    (hok : firstErr op (ctxOf s j f) = none)
    (hargs : ∀ e ∈ op.srcElems (ctxOf s j f) ++ op.dstElems (ctxOf s j f), e.buf ∈ arguments op (ctxOf s j f)) :
    exec i s = .next (State.complete (State.settled
      ((pixelStores op (ctxOf s j f) 0 0 (memElems op (ctxOf s j f) s.mem 0 0)).foldl State.storeElem
        { s with lut := lutAfter op (ctxOf s j f) s.lut }))) := by
  obtain ⟨hl, ha, haddr⟩ := firstErr_none hok
  have hspan := haddr (by simp [addressed, ctxOf, himm, hw, hh])
  have hin : ∀ (e : ElemRef) (isWrite : Bool), e.inPixel = true → e.buf ∈ arguments op (ctxOf s j f) →
      busFault s.cfg (e.access 0 0) isWrite = false := fun e isWrite he hb => by
    refine busFault_faultFree hfree (le_trans (ElemRef.end_le_spanEnd he ?_ ?_) (spanEnd_le_of_addressErr_none hspan hb)) _
    · simp [ctxOf, hw]
    · simp [ctxOf, hh]
  have htraced := traced_of_jobOf hi
  exact exec_onePixel hi hs hf himm ht hw hh hok
    (fun e he => hin e false (htraced.srcInPixel _ hl ha e he) (hargs e (List.mem_append_left _ he)))
    (fun e he => hin e true (htraced.dstInPixel _ hl ha e he) (hargs e (List.mem_append_right _ he)))

/-! ### DEINTERLEAVE and INTERLEAVE (R404, R405) -/

/-- A command whose pixel is `n` elements copied raw, element `k` from `src k` to `dst k`. -/
structure CopiesRaw (op : JobOp) (x : JobCtx) (n : Nat) (src dst : Nat → ElemRef) : Prop where
  srcElems : op.srcElems x = (List.range n).map src
  dstElems : op.dstElems x = (List.range n).map dst
  body : ∀ v, op.body x v = (List.range n).map v

theorem CopiesRaw.pixelStores {op : JobOp} {x : JobCtx} {n : Nat} {src dst : Nat → ElemRef} (h : CopiesRaw op x n src dst)
    (m : Memory) (q y : Nat) : pixelStores op x q y (memElems op x m q y)
      = (List.range n).map fun k => ⟨(dst k).addr q y, (dst k).buf.unit, m.read ((src k).access q y)⟩ := by
  rw [Machine.pixelStores, h.dstElems, h.body, List.zipWith_map, List.zipWith_self]
  refine List.map_congr_left fun k hk => ?_
  rw [memElems, h.srcElems, List.getElem?_map, List.getElem?_range (List.mem_range.mp hk)]
  rfl

theorem CopiesRaw.buf_mem {op : JobOp} {x : JobCtx} {n : Nat} {src dst : Nat → ElemRef} (h : CopiesRaw op x n src dst)
    (hs : ∀ k ∈ List.range n, (src k).buf ∈ arguments op x) (hd : ∀ k ∈ List.range n, (dst k).buf ∈ arguments op x) :
    ∀ e ∈ op.srcElems x ++ op.dstElems x, e.buf ∈ arguments op x := by
  rw [h.srcElems, h.dstElems]
  exact List.forall_mem_append.mpr ⟨List.forall_mem_map.mpr hs, List.forall_mem_map.mpr hd⟩

/-- R202: a command that does not linearize leaves the table. -/
theorem lutAfter_of_not_linearizes {op : JobOp} {x : JobCtx} (h : op.linearizes = false) (l : Lut) :
    lutAfter op x l = l := by
  simp [lutAfter, needsFill, h]

/-- R105: the elements of the first pixel, from the base of their buffer. -/
theorem chanRef_addr_zero (b : BufArg) (k : Nat) : (chanRef b k).addr 0 0 = b.base + k * b.unit := by
  simp [chanRef, ElemRef.addr]

theorem chanRef_buf (b : BufArg) (k : Nat) : (chanRef b k).buf = b := rfl

theorem wholeRef_addr_zero (b : BufArg) : (wholeRef b).addr 0 0 = b.base := by
  simp [wholeRef, ElemRef.addr]

theorem deinterleave_copiesRaw (x : JobCtx) : CopiesRaw deinterleaveOp x (nch x.f.sl) (chanRef (pixS x))
    (fun k => wholeRef (planeD x k)) :=
  ⟨rfl, rfl, fun _ => rfl⟩

theorem interleave_copiesRaw {x : JobCtx} (h : x.f.dl = x.f.sl) : CopiesRaw interleaveOp x (nch x.f.sl)
    (fun k => wholeRef (planeS x k)) (chanRef (pixD x)) :=
  ⟨rfl, by rw [← h]; rfl, fun _ => rfl⟩

/-- Settles O16: the run of a one-pixel job, with the addresses of R64, R404 and R405. -/
theorem planarOnePixelJob : Obligations.PlanarOnePixelJob := by
  intro s j c f hs ht hfree hw hh hf himm hdl hdt htf hplain ham src dst es pp
  obtain ⟨hpos, hsp⟩ := hplain
  have hx : addressed (ctxOf s j f) = true := by simp [addressed, ctxOf, himm, hw, hh]
  have hlegal : planarLegal (ctxOf s j f) = true := by
    simp [planarLegal, ctxOf, sameType, plainFields, hdl, hdt, htf, hpos, hsp, himm]
  have hparams : ∀ op : JobOp, op.params = [] → ∀ p ∈ checkedParams op (ctxOf s j f),
      isPosFinite (p.value (ctxOf s j f).args) = true := fun op hp => by
    rw [checkedParams_nil htf hp]
    exact nofun
  constructor
  · intro haddr
    have hok : firstErr deinterleaveOp (ctxOf s j f) = none :=
      (firstErr_eq_addressErr hlegal (hparams deinterleaveOp rfl) (by simp [deinterleaveOp, ctxOf, ham]) hx).trans haddr
    have hstores : pixelStores deinterleaveOp (ctxOf s j f) 0 0 (memElems deinterleaveOp (ctxOf s j f) s.mem 0 0)
        = (List.range (nch f.sl)).map fun k => ⟨dst + k * pp, es, s.mem.read ⟨src + k * es, es⟩⟩ := by
      rw [(deinterleave_copiesRaw _).pixelStores]
      simp only [ElemRef.access, chanRef_addr_zero, wholeRef_addr_zero]
      rfl
    rw [exec_onePixel_faultFree (i := .deinterleave c) rfl hs hf himm ht hfree hw hh hok
      (deinterleave_copiesRaw _ |>.buf_mem ?_ ?_), hstores, lutAfter_of_not_linearizes rfl]
    · exact fun k _ => List.mem_append_left _ (List.mem_singleton.mpr rfl)
    · exact fun k hk => List.mem_append_right _ (List.mem_map_of_mem hk)
  · intro haddr
    have hok : firstErr interleaveOp (ctxOf s j f) = none :=
      (firstErr_eq_addressErr hlegal (hparams interleaveOp rfl) (by simp [interleaveOp, ctxOf, ham]) hx).trans haddr
    have hstores : pixelStores interleaveOp (ctxOf s j f) 0 0 (memElems interleaveOp (ctxOf s j f) s.mem 0 0)
        = (List.range (nch f.sl)).map fun k => ⟨dst + k * es, es, s.mem.read ⟨src + k * pp, es⟩⟩ := by
      have hunit : (pixD (ctxOf s j f)).unit = es := congrArg elemSize hdt
      rw [(interleave_copiesRaw hdl).pixelStores]
      simp only [ElemRef.access, chanRef_addr_zero, wholeRef_addr_zero, chanRef_buf, hunit]
      rfl
    rw [exec_onePixel_faultFree (i := .interleave c) rfl hs hf himm ht hfree hw hh hok
      (interleave_copiesRaw hdl |>.buf_mem ?_ ?_), hstores, lutAfter_of_not_linearizes rfl]
    · exact fun k hk => List.mem_append_left _ (List.mem_map_of_mem hk)
    · exact fun k _ => List.mem_append_right _ (List.mem_singleton.mpr rfl)

end Sys2Proof.Machine
end

section
/-! PROOFS. Element accesses (R101 to R103, R117, R123): an element read after a write of the same place (O52), and the
accesses that fall in the register window (O30). -/

namespace Sys2Proof.Machine

/-! ### Elements read back (R101) -/

/-- The value of bytes that are the little-endian digits of `v`. -/
theorem Memory.readNat_of_digits : ∀ (n : Nat) {m : Memory} {a v : Nat},
    (∀ k, k < n → m.byte (a + k) = BitVec.ofNat 8 (v / 256 ^ k)) → m.readNat a n = v % 256 ^ n
  | 0, _, _, v, _ => by rw [Memory.readNat, Nat.pow_zero, Nat.mod_one]
  | n + 1, m, a, v, h => by
    have hlow : (m.byte a).toNat = v % 256 := by
      have h0 := h 0 (Nat.succ_pos n)
      rw [Nat.add_zero, Nat.pow_zero, Nat.div_one] at h0
      rw [h0, BitVec.toNat_ofNat]
    have hhigh : m.readNat (a + 1) n = v / 256 % 256 ^ n := Memory.readNat_of_digits n fun k hk => by
      rw [Nat.div_div_eq_div_mul, ← Nat.pow_succ', Nat.add_assoc, Nat.add_comm 1 k]
      exact h (k + 1) (Nat.succ_lt_succ hk)
    rw [Memory.readNat, hlow, hhigh, Nat.pow_succ', Nat.mod_mul]

/-- A read sees the bytes of its access only. -/
theorem Memory.read_congr {m m' : Memory} {c : Access} (h : ∀ a, c.covers a = true → m'.byte a = m.byte a) :
    m'.read c = m.read c := by
  have key : ∀ (n a : Nat), (∀ k, k < n → m'.byte (a + k) = m.byte (a + k)) → m'.readNat a n = m.readNat a n := by
    intro n
    induction n with
    | zero => exact fun _ _ => rfl
    | succ n ih =>
      intro a hk
      rw [Memory.readNat, Memory.readNat, ih (a + 1) fun k hlt => by
        rw [Nat.add_assoc, Nat.add_comm 1 k]
        exact hk (k + 1) (Nat.succ_lt_succ hlt)]
      exact congrArg (fun b : Byte => b.toNat + 256 * m.readNat (a + 1) n) (hk 0 (Nat.succ_pos n))
  rw [Memory.read, Memory.read, key c.size c.addr fun k hk => h _ (Access.covers_true.mpr ⟨by omega, by omega⟩)]

/-- Byte `k` of a written element is byte `k` of the value (R102, R103). -/
theorem Memory.byte_write_same {m : Memory} (h : m.wf = true) (w : Store) {k : Nat} (hk : k < w.size) :
    (m.write w).byte (w.addr + k) = BitVec.ofNat 8 (w.value.toNat / 256 ^ k) :=
  Memory.byte_writeNat_same w.size w.addr w.value.toNat h k hk

/-- A read of a written element gives the low bytes of the value. -/
theorem Memory.read_write_same {m : Memory} (h : m.wf = true) (w : Store) :
    (m.write w).read w.access = lowBytes w.size w.value := by
  have hdigits := Memory.readNat_of_digits w.size fun k hk => Memory.byte_write_same h w hk
  rw [Memory.read, lowBytes, Nat.pow_mul]
  exact congrArg (BitVec.ofNat 32) hdigits

/-- Settles O52, by the byte lemmas of a write and the digits of its value. -/
theorem elementWriteReadsBack : Obligations.ElementWriteReadsBack := by
  intro m w hwf _
  refine ⟨Memory.read_write_same hwf w, fun k hk => ?_, fun a ha => ?_, Memory.wf_write hwf w⟩
  · rw [Memory.byte_write_same hwf w hk, Nat.pow_mul]
  · exact Memory.byte_write_other m w (Access.covers_false.mpr ha)

/-! ### The register window (R123) -/

/-- Two accesses meet where the later start comes before the earlier end. -/
theorem Access.meets_iff {c d : Access} :
    c.meets d = true ↔ max c.addr d.addr < min (c.addr + c.size) (d.addr + d.size) := by
  rw [Access.meets, decide_eq_true_iff]

theorem inWindow_eq {cfg : Config} {b : Nat} (h : cfg.windowBase = some b) (c : Access) :
    inWindow cfg c = c.meets ⟨b, 4096⟩ := by
  simp only [inWindow, h]

/-- Settles O30: the window's clause of a bus fault, and the absence of the other two. -/
theorem windowAccessFaults : Obligations.WindowAccessFaults := by
  intro cfg b c w hb hsize
  refine ⟨fun hlow hhigh => ?_, fun hfree hspace hapart => ?_⟩
  · have hin : inWindow cfg c = true := by
      rw [inWindow_eq hb, Access.meets_iff]
      dsimp only
      omega
    rw [busFault, hin, Bool.or_true, Bool.true_or]
  · have hout : inWindow cfg c = false := by
      rw [inWindow_eq hb, ← Bool.not_eq_true, Access.meets_iff]
      dsimp only
      omega
    rw [busFault, hfree, hout, decide_eq_false (Nat.not_lt.mpr hspace)]
    rfl

end Sys2Proof.Machine
end

section
/-! PROOFS. The geometry of a job whose checks pass (R105, R106, R109, R518): every element lies in its row, two elements
of a destination share no byte, and an element of a pixel's source shares one with a destination element of the same
pixel at most. -/

namespace Sys2Proof.Machine

/-! ### Accesses that share no byte -/

/-- No address is covered by both. -/
def Access.Apart (c d : Access) : Prop := ∀ a, c.covers a = true → d.covers a = false

theorem Access.Apart.symm {c d : Access} (h : c.Apart d) : d.Apart c := fun a hd => by
  rw [← Bool.not_eq_true]
  intro hc
  rw [h a hc] at hd
  cases hd

theorem Access.apart_of_before {c d : Access} (h : c.addr + c.size ≤ d.addr) : c.Apart d := fun a hc => by
  rw [Access.covers_true] at hc
  rw [Access.covers_false]
  omega

/-- `c` lies within `d`. -/
def Access.Within (c d : Access) : Prop := ∀ a, c.covers a = true → d.covers a = true

theorem Access.within_of_le {c d : Access} (h : d.addr ≤ c.addr) (h' : c.addr + c.size ≤ d.addr + d.size) :
    c.Within d := fun a hc => by
  rw [Access.covers_true] at hc ⊢
  omega

theorem Access.Apart.of_within {c d c' d' : Access} (h : c'.Apart d') (hc : c.Within c') (hd : d.Within d') :
    c.Apart d := fun a ha => by
  rw [← Bool.not_eq_true]
  intro hb
  have := h a (hc a ha)
  rw [hd a hb] at this
  cases this

theorem Access.meets_true {c d : Access} : c.meets d = true ↔ ∃ a, c.covers a = true ∧ d.covers a = true := by
  simp only [Access.meets_iff, Access.covers_true]
  exact ⟨fun h => ⟨max c.addr d.addr, by omega, by omega⟩, fun ⟨a, _, _⟩ => by omega⟩

/-! ### The elements of a command (R151, R152) -/

/-- Where the elements of a command lie: each in an argument, those of a pixel in places of their own, one value for
each. -/
structure JobOp.Placed (op : JobOp) : Prop where
  srcBuf : ∀ x, x.f.imm = false → ∀ e ∈ op.srcElems x, e.buf ∈ op.sources x
  dstBuf : ∀ x, ∀ e ∈ op.dstElems x, e.buf ∈ op.dests x
  dstId : ∀ x, ∀ b ∈ op.dests x, b.id ≠ 1
  dstChan : ∀ x, (op.dstElems x).Pairwise fun e e' => e.buf = e'.buf → e.chan ≠ e'.chan
  bodyLength : ∀ x v, op.legal x = true → op.alpha x = true → (op.body x v).length = (op.dstElems x).length

theorem buf_of_mem_channels {b : BufArg} {l : Layout} {e : ElemRef} (h : e ∈ channels b l) : e.buf = b := by
  obtain ⟨k, -, rfl⟩ := List.mem_map.mp h
  rfl

theorem buf_of_mem_polDsts {x : JobCtx} {e : ElemRef} (h : e ∈ polDsts x) : e.buf = pixD x := by
  rcases List.mem_append.mp h with h | h
  · simp only [List.mem_cons, List.not_mem_nil, or_false] at h
    rcases h with rfl | rfl | rfl <;> rfl
  · split at h
    · cases h
    · rw [List.mem_singleton.mp h]; rfl

/-- Elements at different channels, in the order of a duplicate-free list. -/
theorem pairwise_chan {b : BufArg} {l : List Nat} (h : l.Nodup) :
    (l.map (chanRef b)).Pairwise fun e e' => e.buf = e'.buf → e.chan ≠ e'.chan :=
  by
  rw [List.pairwise_map]
  exact List.Pairwise.imp (fun hne _ => hne : ∀ {k k'}, k ≠ k' → _ → k ≠ k') h

theorem channels_chan (b : BufArg) (l : Layout) :
    (channels b l).Pairwise fun e e' => e.buf = e'.buf → e.chan ≠ e'.chan :=
  pairwise_chan List.nodup_range

theorem polDsts_chan (x : JobCtx) : (polDsts x).Pairwise fun e e' => e.buf = e'.buf → e.chan ≠ e'.chan := by
  have h : polDsts x = ([rOff x.f.dl, gOff x.f.dl, bOff x.f.dl] ++ if x.f.am = .none then [] else [aOff x.f.dl]).map
      (chanRef (pixD x)) := by
    unfold polDsts
    split <;> rfl
  rw [h]
  refine pairwise_chan ?_
  cases x.f.dl <;> split <;> decide

/-- The alpha element is there on both sides or on neither. -/
theorem alphaOut_length (x : JobCtx) (a : Word) : (alphaOut x a).length + 3 = (polDsts x).length := by
  unfold alphaOut polDsts
  cases x.f.am <;> rfl

theorem pixD_id (x : JobCtx) : ∀ b ∈ [pixD x], b.id ≠ 1 := fun b hb => by
  rw [List.mem_singleton.mp hb]
  exact show (2 : Nat) ≠ 1 by decide

/-- The commands that write named channels of an interleaved destination. -/
theorem placed_named {op : JobOp} (hsb : ∀ x, x.f.imm = false → ∀ e ∈ op.srcElems x, e.buf ∈ op.sources x)
    (hds : op.dests = fun x => [pixD x]) (hde : op.dstElems = polDsts)
    (hbody : ∀ x v, ∃ t w, op.body x v = t ++ alphaOut x w ∧ t.length = 3) : op.Placed where
  srcBuf := hsb
  dstBuf x e he := by
    rw [hde] at he
    rw [hds]
    exact List.mem_singleton.mpr (buf_of_mem_polDsts he)
  dstId x := by rw [hds]; exact pixD_id x
  dstChan x := by rw [hde]; exact polDsts_chan x
  bodyLength x v _ _ := by
    obtain ⟨t, w, hb, ht⟩ := hbody x v
    rw [hde, hb, List.length_append, ht, ← alphaOut_length x w, Nat.add_comm]

/-- The commands with a single destination element, in a buffer of its own. -/
theorem placed_single {op : JobOp} (hsb : ∀ x, x.f.imm = false → ∀ e ∈ op.srcElems x, e.buf ∈ op.sources x)
    {b : JobCtx → BufArg} (hds : op.dests = fun x => [b x]) (hde : op.dstElems = fun x => [wholeRef (b x)])
    (hid : ∀ x, (b x).id = 2) (hbody : ∀ x v, (op.body x v).length = 1) : op.Placed where
  srcBuf := hsb
  dstBuf x e he := by
    rw [hde] at he
    rw [hds, List.mem_singleton.mp he]
    exact List.mem_singleton.mpr rfl
  dstId x d hd := by
    rw [hds] at hd
    rw [List.mem_singleton.mp hd, hid]
    decide
  dstChan x := by rw [hde]; exact List.pairwise_singleton _ _
  bodyLength x v _ _ := by rw [hde, hbody]; rfl

theorem placed_compare (dt : ElemType) (spaces : EqSpace → Bool) (g : JobCtx → Tri → Tri → Word) :
    (compareOp dt spaces g).Placed :=
  placed_single
    (fun x _ e he => by
      rcases List.mem_append.mp he with he | he <;> obtain ⟨k, -, rfl⟩ := List.mem_map.mp he
      · exact List.mem_cons_self
      · exact List.mem_cons_of_mem _ (List.mem_singleton.mpr rfl))
    rfl rfl (fun _ => rfl) (fun _ _ => rfl)

theorem placed_expand : expandOp.Placed where
  srcBuf x himm e he := by
    rcases List.mem_append.mp he with he | he
    · rw [buf_of_mem_channels he]
      exact List.mem_append_left _ (List.mem_singleton.mpr rfl)
    · split at he
      · next hp =>
        rw [List.mem_singleton.mp he]
        exact List.mem_append_right _ (by rw [if_pos ⟨hp, himm⟩]; exact List.mem_singleton.mpr rfl)
      · cases he
  dstBuf x e he := List.mem_singleton.mpr (buf_of_mem_channels he)
  dstId := pixD_id
  dstChan x := channels_chan _ _
  bodyLength x v _ _ := by simp [expandOp, channels]

theorem placed_strip : stripOp.Placed where
  srcBuf x _ e he := by
    obtain ⟨k, -, rfl⟩ := List.mem_map.mp he
    exact List.mem_singleton.mpr rfl
  dstBuf x e he := List.mem_singleton.mpr (buf_of_mem_channels he)
  dstId := pixD_id
  dstChan x := channels_chan _ _
  bodyLength x v _ _ := by simp [stripOp, channels]

theorem placed_deinterleave : deinterleaveOp.Placed where
  srcBuf x _ e he := List.mem_singleton.mpr (buf_of_mem_channels he)
  dstBuf x e he := by
    obtain ⟨k, hk, rfl⟩ := List.mem_map.mp he
    exact List.mem_map_of_mem hk
  dstId x b hb := by
    obtain ⟨k, -, rfl⟩ := List.mem_map.mp hb
    simp only [planeD]
    omega
  dstChan x := by
    refine List.pairwise_map.mpr (List.nodup_range.imp fun {k k'} hne hbuf => absurd ?_ hne)
    have hid : 0x20 + k = 0x20 + k' := congrArg BufArg.id hbuf
    omega
  bodyLength x v _ _ := by simp [deinterleaveOp]

theorem placed_interleave : interleaveOp.Placed where
  srcBuf x _ e he := by
    obtain ⟨k, hk, rfl⟩ := List.mem_map.mp he
    exact List.mem_map_of_mem hk
  dstBuf x e he := List.mem_singleton.mpr (buf_of_mem_channels he)
  dstId := pixD_id
  dstChan x := channels_chan _ _
  bodyLength x v hl _ := by
    have hdl : x.f.dl = x.f.sl := by
      simp only [interleaveOp, planarLegal, Bool.and_eq_true, decide_eq_true_eq] at hl
      tauto
    simp [interleaveOp, channels, hdl]

theorem placed_pack565 : pack565Op.Placed :=
  placed_single (fun _ _ e he => List.mem_singleton.mpr (namedSrcs_buf e he))
    rfl rfl (fun _ => rfl) (fun _ _ => rfl)

theorem placed_pack1010102 : pack1010102Op.Placed :=
  placed_single (fun _ _ e he => List.mem_singleton.mpr (namedSrcs_buf e he))
    rfl rfl (fun _ => rfl) (fun _ _ => rfl)

theorem placed_unpack {op : JobOp} {b : JobCtx → BufArg} (hss : op.sources = fun x => [b x])
    (hse : op.srcElems = fun x => [wholeRef (b x)]) (hds : op.dests = fun x => [pixD x]) (hde : op.dstElems = polDsts)
    (hbody : ∀ x v, ∃ t w, op.body x v = t ++ alphaOut x w ∧ t.length = 3) : op.Placed :=
  placed_named (fun _ _ e he => by
    rw [hse] at he
    rw [hss, List.mem_singleton.mp he]
    exact List.mem_singleton.mpr rfl) hds hde hbody

theorem placed_pol {op : JobOp} (hss : op.sources = fun x => [pixS x]) (hse : op.srcElems = polSrcs)
    (hds : op.dests = fun x => [pixD x]) (hde : op.dstElems = polDsts)
    (hbody : ∀ x v, ∃ t w, op.body x v = t ++ alphaOut x w ∧ t.length = 3) : op.Placed :=
  placed_named (fun _ _ e he => by
    rw [hse] at he
    rw [hss]
    exact List.mem_singleton.mpr (namedSrcs_buf e he)) hds hde hbody

/-- Every command of the table, by its template. -/
theorem placed_of_jobOf {i : Instr} {op : JobOp} {c : Cmd} (h : jobOf i = some (op, c)) : op.Placed := by
  cases i <;> cases h
  case expand => exact placed_expand
  case strip => exact placed_strip
  case deinterleave => exact placed_deinterleave
  case interleave => exact placed_interleave
  case pack565 => exact placed_pack565
  case unpack565Shifted => exact placed_unpack rfl rfl rfl rfl fun _ _ => ⟨_, _, rfl, rfl⟩
  case unpack565Scaled => exact placed_unpack rfl rfl rfl rfl fun _ _ => ⟨_, _, rfl, rfl⟩
  case pack1010102 => exact placed_pack1010102
  case unpack1010102Shifted => exact placed_unpack rfl rfl rfl rfl fun _ _ => ⟨_, _, rfl, rfl⟩
  case unpack1010102Scaled => exact placed_unpack rfl rfl rfl rfl fun _ _ => ⟨_, _, rfl, rfl⟩
  case distEuclid => exact placed_compare _ _ _
  case distTaxicab => exact placed_compare _ _ _
  case cmpEq => exact placed_compare _ _ _
  all_goals exact placed_pol rfl rfl rfl rfl fun _ _ => ⟨_, _, rfl, rfl⟩

end Sys2Proof.Machine
end

section
/-! PROOFS. The geometry of a job whose checks pass, continued: what the STRIDE, RANGE and OVERLAP checks give (R106, R516
to R518). -/

namespace Sys2Proof.Machine

/-! ### Footprints as the checks compare them (R106, R518) -/

theorem covers_rowRange {w y a : Nat} {b : BufArg} :
    (rowRange w b y).covers a = true ↔ b.base + y * b.stride ≤ a ∧ a < b.base + y * b.stride + w * b.bpp :=
  Access.covers_true

theorem inFootprint_iff {w h a : Nat} {b : BufArg} :
    InFootprint w h b a ↔ ∃ y, y < h ∧ (rowRange w b y).covers a = true := by
  simp only [InFootprint, covers_rowRange]

/-- A footprint lies within the span of its buffer. -/
theorem InFootprint.within_span {w h a : Nat} {b : BufArg} (ha : InFootprint w h b a) :
    b.base ≤ a ∧ a < spanEnd w h b := by
  obtain ⟨y, hy, hlow, hhigh⟩ := ha
  have hrow : y * b.stride ≤ (h - 1) * b.stride := Nat.mul_le_mul_right _ (by omega)
  unfold spanEnd
  omega

/-- R518: the comparison the OVERLAP check makes is sharing a byte. -/
theorem footprintsMeet_iff {w h : Nat} {b d : BufArg} :
    footprintsMeet w h b d = true ↔ ∃ a, InFootprint w h b a ∧ InFootprint w h d a := by
  have hrows : ((List.range h).any fun y => (List.range h).any fun z => (rowRange w b y).meets (rowRange w d z)) = true
      ↔ ∃ a, InFootprint w h b a ∧ InFootprint w h d a := by
    simp only [List.any_eq_true, List.mem_range, Access.meets_true, inFootprint_iff]
    exact ⟨fun ⟨y, hy, z, hz, a, hb, hd⟩ => ⟨a, ⟨y, hy, hb⟩, z, hz, hd⟩,
      fun ⟨a, ⟨y, hy, hb⟩, z, hz, hd⟩ => ⟨y, hy, z, hz, a, hb, hd⟩⟩
  simp only [footprintsMeet, Bool.and_eq_true, decide_eq_true_eq, hrows]
  refine and_iff_right_of_imp fun ⟨a, hb, hd⟩ => ?_
  have hb := hb.within_span
  have hd := hd.within_span
  omega

/-! ### What passed address checks say (R515 to R518) -/

theorem strideErr_none {w : Nat} : ∀ {l : List BufArg}, strideErr w l = none → ∀ b ∈ l, w * b.bpp ≤ b.stride
  | [], _ => nofun
  | b :: rest, hn => by
    rw [strideErr] at hn
    split at hn
    · cases hn
    · next hb => exact List.forall_mem_cons.mpr ⟨Nat.not_lt.mp hb, strideErr_none hn⟩

/-- The footprints of `d` and of the earlier argument `b` share no byte, or it is the in-place case. -/
def OverlapFree (w h : Nat) (d b : BufArg) : Prop := footprintsMeet w h d b = false ∨ inPlace d b = true

theorem overlapWith_none {w h : Nat} {d : BufArg} : ∀ {l : List BufArg}, overlapWith w h d l = none →
    ∀ b ∈ l, OverlapFree w h d b
  | [], _ => nofun
  | b :: rest, hn => by
    rw [overlapWith] at hn
    split at hn
    · cases hn
    · next hb =>
      refine List.forall_mem_cons.mpr ⟨?_, overlapWith_none hn⟩
      rw [Bool.and_eq_true, Bool.not_eq_true', not_and_or, Bool.not_eq_true, Bool.not_eq_false] at hb
      exact hb

/-- R518: each destination is clear of every argument before it. -/
theorem overlapErr_none {w h : Nat} : ∀ {dests before : List BufArg}, overlapErr w h before dests = none →
    (∀ d ∈ dests, ∀ b ∈ before, OverlapFree w h d b) ∧ dests.Pairwise fun b d => OverlapFree w h d b
  | [], _, _ => ⟨nofun, .nil⟩
  | d :: rest, before, hn => by
    rw [overlapErr] at hn
    split at hn
    · cases hn
    · next hd =>
      obtain ⟨hbefore, hpair⟩ := overlapErr_none hn
      refine ⟨List.forall_mem_cons.mpr ⟨overlapWith_none hd, fun d' hd' b hb => ?_⟩, List.pairwise_cons.mpr ⟨?_, hpair⟩⟩
      · exact hbefore d' hd' b (List.mem_append_left _ hb)
      · exact fun d' hd' => hbefore d' hd' d (List.mem_append_right _ (List.mem_singleton.mpr rfl))

/-- What passed address checks say of the arguments. -/
theorem addressErr_none {op : JobOp} {x : JobCtx} (h : addressErr op x = none) :
    alignErr (arguments op x) = none ∧ strideErr x.args.width.toNat (arguments op x) = none
      ∧ rangeErr (spaceSize x.cfg.addrW) x.args.width.toNat x.args.height.toNat (arguments op x) = none
      ∧ overlapErr x.args.width.toNat x.args.height.toNat (op.sources x) (op.dests x) = none := by
  unfold addressErr at h
  dsimp only at h
  split at h
  · cases h
  · next ha =>
    split at h
    · cases h
    · next hs =>
      split at h
      · cases h
      · next hr => exact ⟨ha, hs, hr, h⟩

/-! ### Pixels and elements -/

/-- Column `q` and row `y` name a pixel of the job. -/
def JobCtx.HasPixel (x : JobCtx) (q y : Nat) : Prop := q < x.args.width.toNat ∧ y < x.args.height.toNat

/-- R105: the bytes of pixel (q, y) in a buffer. -/
def pixelRange (b : BufArg) (q y : Nat) : Access := ⟨b.base + y * b.stride + q * b.bpp, b.bpp⟩

theorem ElemRef.access_within_pixel {e : ElemRef} (he : e.inPixel = true) (q y : Nat) :
    (e.access q y).Within (pixelRange e.buf q y) := by
  have hchan : (e.chan + 1) * e.buf.unit ≤ e.buf.bpp := of_decide_eq_true he
  rw [Nat.add_one_mul] at hchan
  refine Access.within_of_le ?_ ?_ <;> simp only [pixelRange, ElemRef.access, ElemRef.addr] <;> omega

theorem pixelRange_within_row {w q : Nat} (hq : q < w) (b : BufArg) (y : Nat) :
    (pixelRange b q y).Within (rowRange w b y) := by
  have hcol : (q + 1) * b.bpp ≤ w * b.bpp := Nat.mul_le_mul_right _ hq
  rw [Nat.add_one_mul] at hcol
  refine Access.within_of_le ?_ ?_ <;> simp only [pixelRange, rowRange] <;> omega

/-- R105, R106: an element of a pixel of the job lies in the footprint of its buffer. -/
theorem ElemRef.access_inFootprint {e : ElemRef} (he : e.inPixel = true) {w h q y a : Nat} (hq : q < w) (hy : y < h)
    (ha : (e.access q y).covers a = true) : InFootprint w h e.buf a :=
  inFootprint_iff.mpr ⟨y, hy, pixelRange_within_row hq e.buf y a (e.access_within_pixel he q y a ha)⟩

/-- Two pixels of a buffer whose rows do not overlap share no byte. -/
theorem pixelRange_apart {b : BufArg} {w q y q' y' : Nat} (hstride : w * b.bpp ≤ b.stride) (hq : q < w) (hq' : q' < w)
    (hne : (q, y) ≠ (q', y')) : (pixelRange b q y).Apart (pixelRange b q' y') := by
  have hrow : ∀ {p r r' : Nat}, p < w → r < r' → r * b.stride + p * b.bpp + b.bpp ≤ r' * b.stride := by
    intro p r r' hp hr
    have hcol : (p + 1) * b.bpp ≤ w * b.bpp := Nat.mul_le_mul_right _ hp
    have hnext : (r + 1) * b.stride ≤ r' * b.stride := Nat.mul_le_mul_right _ hr
    rw [Nat.add_one_mul] at hcol hnext
    omega
  have hcol : ∀ {p p' : Nat}, p < p' → p * b.bpp + b.bpp ≤ p' * b.bpp := fun {p p'} hp => by
    have : (p + 1) * b.bpp ≤ p' * b.bpp := Nat.mul_le_mul_right _ hp
    rwa [Nat.add_one_mul] at this
  rcases Nat.lt_trichotomy y y' with hy | rfl | hy
  · refine Access.apart_of_before ?_
    have := hrow hq hy
    simp only [pixelRange]
    omega
  · rcases Nat.lt_trichotomy q q' with hp | rfl | hp
    · refine Access.apart_of_before ?_
      have := hcol hp
      simp only [pixelRange]
      omega
    · exact absurd rfl hne
    · refine Access.Apart.symm (Access.apart_of_before ?_)
      have := hcol hp
      simp only [pixelRange]
      omega
  · refine Access.Apart.symm (Access.apart_of_before ?_)
    have := hrow hq' hy
    simp only [pixelRange]
    omega

/-- Two elements of one pixel at different channels share no byte. -/
theorem ElemRef.access_apart_of_chan {e e' : ElemRef} (hb : e.buf = e'.buf) (hc : e.chan ≠ e'.chan) (q y : Nat) :
    (e.access q y).Apart (e'.access q y) := by
  have hnext : ∀ {k k' : Nat}, k < k' → k * e'.buf.unit + e'.buf.unit ≤ k' * e'.buf.unit := fun {k k'} hk => by
    have : (k + 1) * e'.buf.unit ≤ k' * e'.buf.unit := Nat.mul_le_mul_right _ hk
    rwa [Nat.add_one_mul] at this
  rcases Nat.lt_or_gt_of_ne hc with h | h
  · refine Access.apart_of_before ?_
    have := hnext h
    simp only [ElemRef.access, ElemRef.addr, hb]
    omega
  · refine Access.Apart.symm (Access.apart_of_before ?_)
    have := hnext h
    simp only [ElemRef.access, ElemRef.addr, hb]
    omega

/-- Elements of buffers whose footprints do not meet share no byte. -/
theorem ElemRef.access_apart_of_footprints {e e' : ElemRef} (he : e.inPixel = true) (he' : e'.inPixel = true)
    {w h q y q' y' : Nat} (hq : q < w) (hy : y < h) (hq' : q' < w) (hy' : y' < h)
    (hm : footprintsMeet w h e.buf e'.buf = false) : (e.access q y).Apart (e'.access q' y') := by
  intro a ha
  rw [← Bool.not_eq_true]
  intro ha'
  have : footprintsMeet w h e.buf e'.buf = true :=
    footprintsMeet_iff.mpr ⟨a, e.access_inFootprint he hq hy ha, e'.access_inFootprint he' hq' hy' ha'⟩
  rw [hm] at this
  cases this

/-! ### The places of a job's elements -/

/-- What the traversal rests on: destination elements share no byte, and a pixel's source elements share none with another
pixel's destination elements (R109, R518). -/
structure ElemsDisjoint (op : JobOp) (x : JobCtx) : Prop where
  samePixel : ∀ {q y}, x.HasPixel q y → (op.dstElems x).Pairwise fun e e' => (e.access q y).Apart (e'.access q y)
  dstDst : ∀ {q y q' y'}, x.HasPixel q y → x.HasPixel q' y' → (q, y) ≠ (q', y') → ∀ e ∈ op.dstElems x,
    ∀ e' ∈ op.dstElems x, (e.access q y).Apart (e'.access q' y')
  srcDst : ∀ {q y q' y'}, x.HasPixel q y → x.HasPixel q' y' → (q, y) ≠ (q', y') → ∀ e ∈ op.srcElems x,
    ∀ e' ∈ op.dstElems x, (e.access q y).Apart (e'.access q' y')

theorem imm_of_addressed {x : JobCtx} (h : addressed x = true) : x.f.imm = false := by
  simp only [addressed, Bool.and_eq_true, Bool.not_eq_true'] at h
  exact h.1.1

/-- Two different destination arguments have footprints that do not meet. -/
theorem dests_apart {op : JobOp} {x : JobCtx} (hp : op.Placed) {w h : Nat}
    (hpair : (op.dests x).Pairwise fun b d => OverlapFree w h d b) {b d : BufArg} (hb : b ∈ op.dests x)
    (hd : d ∈ op.dests x) (hne : b ≠ d) : footprintsMeet w h b d = false := by
  have hsymm : ∀ {b d : BufArg}, footprintsMeet w h d b = false → footprintsMeet w h b d = false := fun {b d} hm => by
    rw [← Bool.not_eq_true, footprintsMeet_iff] at hm ⊢
    exact fun ⟨a, ha, ha'⟩ => hm ⟨a, ha', ha⟩
  have hclear : (op.dests x).Pairwise fun b d => footprintsMeet w h b d = false :=
    hpair.imp_of_mem fun {b d} hb _ hf => hsymm <| hf.resolve_right fun hin => by
      simp only [inPlace, Bool.and_eq_true, decide_eq_true_eq] at hin
      exact hp.dstId x b hb hin.1.1.1.2
  have : Std.Symm fun b d => footprintsMeet w h b d = false := ⟨fun _ _ => hsymm⟩
  exact hclear.forall hb hd hne

/-- A job whose checks pass has its elements in places of their own. -/
theorem disjoint_of_firstErr {op : JobOp} {x : JobCtx} (ht : op.Traced) (hp : op.Placed) (hx : addressed x = true)
    (hok : firstErr op x = none) : ElemsDisjoint op x := by
  obtain ⟨hl, ha, haddr⟩ := firstErr_none hok
  obtain ⟨-, hstride, -, hoverlap⟩ := addressErr_none (haddr hx)
  obtain ⟨hsrc, hpair⟩ := overlapErr_none hoverlap
  have hrows := strideErr_none hstride
  have hsin := ht.srcInPixel x hl ha
  have hdin := ht.dstInPixel x hl ha
  have hdrow : ∀ e ∈ op.dstElems x, x.args.width.toNat * e.buf.bpp ≤ e.buf.stride := fun e he =>
    hrows _ (List.mem_append_right _ (hp.dstBuf x e he))
  refine ⟨fun {q y} hpx => ?_, fun {q y q' y'} hpx hpx' hne e he e' he' => ?_,
    fun {q y q' y'} hpx hpx' hne e he e' he' => ?_⟩
  · refine (hp.dstChan x).imp_of_mem fun {e e'} he he' hchan => ?_
    by_cases hb : e.buf = e'.buf
    · exact ElemRef.access_apart_of_chan hb (hchan hb) q y
    · exact ElemRef.access_apart_of_footprints (hdin e he) (hdin e' he') hpx.1 hpx.2 hpx.1 hpx.2
        (dests_apart hp hpair (hp.dstBuf x e he) (hp.dstBuf x e' he') hb)
  · by_cases hb : e.buf = e'.buf
    · refine (pixelRange_apart (hdrow e' he') hpx.1 hpx'.1 hne).of_within ?_ (e'.access_within_pixel (hdin e' he') q' y')
      rw [← hb]
      exact e.access_within_pixel (hdin e he) q y
    · exact ElemRef.access_apart_of_footprints (hdin e he) (hdin e' he') hpx.1 hpx.2 hpx'.1 hpx'.2
        (dests_apart hp hpair (hp.dstBuf x e he) (hp.dstBuf x e' he') hb)
  · rcases hsrc _ (hp.dstBuf x e' he') _ (hp.srcBuf x (imm_of_addressed hx) e he) with hm | hin
    · exact (ElemRef.access_apart_of_footprints (hdin e' he') (hsin e he) hpx'.1 hpx'.2 hpx.1 hpx.2 hm).symm
    · simp only [inPlace, Bool.and_eq_true, decide_eq_true_eq] at hin
      obtain ⟨⟨⟨-, hbase⟩, hst⟩, hbpp⟩ := hin
      have hrange : pixelRange e.buf q y = pixelRange e'.buf q y := by
        rw [pixelRange, pixelRange, hbase, hst, hbpp]
      refine (pixelRange_apart (hdrow e' he') hpx.1 hpx'.1 hne).of_within ?_ (e'.access_within_pixel (hdin e' he') q' y')
      rw [← hrange]
      exact e.access_within_pixel (hsin e he) q y

end Sys2Proof.Machine
end

section
/-! PROOFS. The traversal of a job of any size, in any order of its accesses (R110, R111, R320, R375): what every access
keeps. A pixel that still reads finds its source as at the start, and every byte changed since belongs to an element
whose write has landed. -/

namespace Sys2Proof.Machine

/-! ### The writes of a job -/

/-- The writes of pixel (q, y) for the source elements as they are in `m` (R329). -/
def jobStores (op : JobOp) (x : JobCtx) (m : Memory) (q y : Nat) : List Store :=
  pixelStores op x q y (memElems op x m q y)

theorem access_of_mem_jobStores {op : JobOp} {x : JobCtx} {m : Memory} {q y : Nat} {w : Store}
    (h : w ∈ jobStores op x m q y) : ∃ e ∈ op.dstElems x, w.access = e.access q y := by
  obtain ⟨e, he, u, rfl⟩ := mem_pixelStores h
  exact ⟨e, he, rfl⟩

/-- Element `k` of the result is the pixel's write number `k`. -/
theorem mem_jobStores_of_getElem? {op : JobOp} {x : JobCtx} {m : Memory} {q y k : Nat} {e : ElemRef} {v : Word}
    (he : (op.dstElems x)[k]? = some e) (hv : (op.body x (memElems op x m q y))[k]? = some v) :
    (⟨e.addr q y, e.buf.unit, v⟩ : Store) ∈ jobStores op x m q y := by
  refine List.mem_of_getElem? (i := k) ?_
  rw [jobStores, pixelStores, List.getElem?_zipWith, he, hv]

theorem pairwise_zipWith {α β γ : Type} {f : α → β → γ} {R : γ → γ → Prop} :
    ∀ {l : List α} (vs : List β), (l.Pairwise fun a a' => ∀ b b', R (f a b) (f a' b')) →
      (List.zipWith f l vs).Pairwise R
  | [], _, _ => by rw [List.zipWith_nil_left]; exact .nil
  | _ :: _, [], _ => by rw [List.zipWith_nil_right]; exact .nil
  | a :: l, v :: vs, h => by
    obtain ⟨ha, hl⟩ := List.pairwise_cons.mp h
    rw [List.zipWith_cons_cons]
    refine List.pairwise_cons.mpr ⟨fun w hw => ?_, pairwise_zipWith vs hl⟩
    rw [← List.map_uncurry_zip_eq_zipWith] at hw
    obtain ⟨⟨a', v'⟩, hz, rfl⟩ := List.mem_map.mp hw
    exact ha a' (List.of_mem_zip hz).1 v v'

/-- The writes of one pixel share no byte. -/
theorem jobStores_apart {op : JobOp} {x : JobCtx} (hd : ElemsDisjoint op x) (m : Memory) {q y : Nat}
    (hpx : x.HasPixel q y) : (jobStores op x m q y).Pairwise fun w w' => w.access.Apart w'.access :=
  pairwise_zipWith _ ((hd.samePixel hpx).imp fun h _ _ => h)

/-! ### Where a pixel stands -/

/-- The write of `w` is still to come. -/
def Stage.owes : Stage → Store → Prop
  | .reading _ _, _ => True
  | .writing left, w => w ∈ left

/-- What a pixel's stage may hold: reads still to do that are its own, with every other slot read from memory as at the
start, or some of its writes. -/
inductive StageOk (op : JobOp) (x : JobCtx) (m : Memory) (q y : Nat) : Stage → Prop where
  | reading {todo : List (Nat × Access)} {got : List (Nat × Word)} (htodo : ∀ r ∈ todo, r ∈ pixelReads op x q y)
      (hgot : ∀ k, k ∉ todo.map Prod.fst → slotValue got k = memElems op x m q y k) : StageOk op x m q y (.reading todo got)
  | writing {left : List Store} (hleft : left.Subperm (jobStores op x m q y)) : StageOk op x m q y (.writing left)

/-- The write `w` of pixel (q, y) is still to come. -/
def Pending (cur : List Pixel) (q y : Nat) (w : Store) : Prop := ∃ px ∈ cur, (px.x, px.y) = (q, y) ∧ px.stage.owes w

/-- The traversal, from memory `m₀` at its start, has come to memory `m` with the pixels `cur` left. -/
structure Underway (op : JobOp) (x : JobCtx) (m₀ m : Memory) (cur : List Pixel) : Prop where
  inJob : ∀ px ∈ cur, x.HasPixel px.x px.y
  stages : ∀ px ∈ cur, StageOk op x m₀ px.x px.y px.stage
  distinct : (cur.map fun px => (px.x, px.y)).Nodup
  wf : m₀.wf = true → m.wf = true
  changed : ∀ a, m.byte a ≠ m₀.byte a → ∃ q y w, x.HasPixel q y ∧ w ∈ jobStores op x m₀ q y
    ∧ w.access.covers a = true ∧ ¬Pending cur q y w
  landed : m₀.wf = true → ∀ q y w, x.HasPixel q y → w ∈ jobStores op x m₀ q y → ¬Pending cur q y w →
    m.read w.access = lowBytes w.size w.value

theorem Pending.perm {cur cur' : List Pixel} (h : cur.Perm cur') {q y : Nat} {w : Store} :
    Pending cur q y w ↔ Pending cur' q y w := by
  simp only [Pending, h.mem_iff]

theorem Underway.perm {op : JobOp} {x : JobCtx} {m₀ m : Memory} {cur cur' : List Pixel}
    (h : Underway op x m₀ m cur) (hp : cur.Perm cur') : Underway op x m₀ m cur' where
  inJob px hpx := h.inJob px (hp.mem_iff.mpr hpx)
  stages px hpx := h.stages px (hp.mem_iff.mpr hpx)
  distinct := (hp.map _).nodup_iff.mp h.distinct
  wf := h.wf
  changed a ha := by
    obtain ⟨q, y, w, hpx, hw, hc, hn⟩ := h.changed a ha
    exact ⟨q, y, w, hpx, hw, hc, fun hp' => hn ((Pending.perm hp).mpr hp')⟩
  landed hwf q y w hpx hw hn := h.landed hwf q y w hpx hw fun hp' => hn ((Pending.perm hp).mp hp')

theorem pending_cons {px : Pixel} {others : List Pixel} {q y : Nat} {w : Store} :
    Pending (px :: others) q y w ↔ (px.x, px.y) = (q, y) ∧ px.stage.owes w ∨ Pending others q y w := by
  simp only [Pending, List.mem_cons, exists_eq_or_imp]

section
variable {op : JobOp} {x : JobCtx} {m₀ m : Memory} {px : Pixel} {others : List Pixel}

/-- No other pixel left is this one. -/
theorem Underway.not_pending_others (h : Underway op x m₀ m (px :: others)) (w : Store) :
    ¬Pending others px.x px.y w := by
  rintro ⟨px', hmem, hxy, -⟩
  have hd := h.distinct
  rw [List.map_cons, List.nodup_cons] at hd
  exact hd.1 (List.mem_map.mpr ⟨px', hmem, hxy⟩)

/-- A step that leaves memory, and what the pixel owes, keeps the traversal on its way. -/
theorem Underway.restage (h : Underway op x m₀ m (px :: others)) {st : Stage} (hst : StageOk op x m₀ px.x px.y st)
    (howes : ∀ w ∈ jobStores op x m₀ px.x px.y, st.owes w ↔ px.stage.owes w) :
    Underway op x m₀ m ({ px with stage := st } :: others) := by
  have hpend : ∀ {q y w}, w ∈ jobStores op x m₀ q y →
      (Pending ({ px with stage := st } :: others) q y w ↔ Pending (px :: others) q y w) := by
    intro q y w hw
    rw [pending_cons, pending_cons]
    refine or_congr (and_congr_right fun hxy => ?_) Iff.rfl
    cases hxy
    exact howes w hw
  obtain ⟨hpx, hothers⟩ := List.forall_mem_cons.mp h.inJob
  refine ⟨List.forall_mem_cons.mpr ⟨hpx, hothers⟩,
    List.forall_mem_cons.mpr ⟨hst, (List.forall_mem_cons.mp h.stages).2⟩, h.distinct, h.wf, fun a ha => ?_,
    fun hwf q y w hpx hw hn => h.landed hwf q y w hpx hw fun hp => hn ((hpend hw).mpr hp)⟩
  obtain ⟨q, y, w, hpx, hw, hc, hn⟩ := h.changed a ha
  exact ⟨q, y, w, hpx, hw, hc, fun hp => hn ((hpend hw).mp hp)⟩

/-- A pixel that owes nothing may leave the cursor. -/
theorem Underway.drop (h : Underway op x m₀ m (px :: others)) (hst : px.stage = .writing []) :
    Underway op x m₀ m others := by
  have hpend : ∀ {q y w}, Pending (px :: others) q y w ↔ Pending others q y w := by
    intro q y w
    rw [pending_cons, hst]
    exact or_iff_right fun hw => List.not_mem_nil hw.2
  have hd := h.distinct
  rw [List.map_cons, List.nodup_cons] at hd
  refine ⟨(List.forall_mem_cons.mp h.inJob).2, (List.forall_mem_cons.mp h.stages).2, hd.2, h.wf, fun a ha => ?_,
    fun hwf q y w hpx hw hn => h.landed hwf q y w hpx hw fun hp => hn (hpend.mp hp)⟩
  obtain ⟨q, y, w, hpx, hw, hc, hn⟩ := h.changed a ha
  exact ⟨q, y, w, hpx, hw, hc, fun hp => hn (hpend.mpr hp)⟩

/-- What a pixel that still reads will read is as at the start (R111, R518). -/
theorem Underway.source_unchanged (hd : ElemsDisjoint op x) (h : Underway op x m₀ m (px :: others))
    {todo : List (Nat × Access)} {got : List (Nat × Word)} (hst : px.stage = .reading todo got) {e : ElemRef}
    (he : e ∈ op.srcElems x) : m.read (e.access px.x px.y) = m₀.read (e.access px.x px.y) := by
  refine Memory.read_congr fun a ha => ?_
  by_contra hne
  obtain ⟨q, y, w, hpx, hw, hc, hn⟩ := h.changed a hne
  by_cases hxy : (px.x, px.y) = (q, y)
  · exact hn (pending_cons.mpr (.inl ⟨hxy, by rw [hst]; trivial⟩))
  · obtain ⟨e', he', hacc⟩ := access_of_mem_jobStores hw
    have hapart := hd.srcDst (h.inJob px List.mem_cons_self) hpx hxy e he e' he' a ha
    rw [← hacc, hc] at hapart
    cases hapart

theorem mem_pixelReads {q y : Nat} {r : Nat × Access} :
    r ∈ pixelReads op x q y ↔ ∃ e, (op.srcElems x)[r.1]? = some e ∧ r.2 = e.access q y := by
  obtain ⟨k, c⟩ := r
  simp only [pixelReads, List.mem_map, Prod.exists, List.mem_zipIdx_iff_getElem?, Prod.mk.injEq]
  exact ⟨fun ⟨e, i, he, hi, hc⟩ => ⟨e, hi ▸ he, hc.symm⟩, fun ⟨e, he, hc⟩ => ⟨e, k, he, rfl, hc.symm⟩⟩

/-- Once every slot is read, the pixel turns to its writes (R111). -/
theorem stageOk_afterRead {todo : List (Nat × Access)} {got : List (Nat × Word)}
    (htodo : ∀ r ∈ todo, r ∈ pixelReads op x px.x px.y)
    (hgot : ∀ k, k ∉ todo.map Prod.fst → slotValue got k = memElems op x m₀ px.x px.y k) :
    StageOk op x m₀ px.x px.y (afterRead op x px todo got)
      ∧ ∀ w ∈ jobStores op x m₀ px.x px.y, (afterRead op x px todo got).owes w := by
  cases todo with
  | nil =>
    have hall : slotValue got = memElems op x m₀ px.x px.y := funext fun k => hgot k List.not_mem_nil
    rw [afterRead, hall]
    exact ⟨.writing (List.Subperm.refl _), fun w hw => hw⟩
  | cons r rest => exact ⟨.reading htodo hgot, fun _ _ => trivial⟩

/-- A read takes an element of the source as at the start. -/
theorem Underway.read (hd : ElemsDisjoint op x) (h : Underway op x m₀ m (px :: others)) {n : Nat}
    {todo rest : List (Nat × Access)} {got : List (Nat × Word)} {k : Nat} {c : Access}
    (hst : px.stage = .reading todo got) (hp : pick n todo = some ((k, c), rest)) :
    Underway op x m₀ m ({ px with stage := afterRead op x px rest ((k, m.read c) :: got) } :: others) := by
  have hok := (List.forall_mem_cons.mp h.stages).1
  rw [hst] at hok
  obtain ⟨htodo, hgot⟩ | _ := hok
  have hperm := pick_perm hp
  obtain ⟨hkc, hrest⟩ := List.forall_mem_cons.mp fun r hr => htodo r (hperm.mem_iff.mp hr)
  obtain ⟨hstage, howes⟩ := stageOk_afterRead (px := px) (todo := rest) (got := (k, m.read c) :: got) hrest fun i hi => by
    obtain ⟨e, he, hc⟩ := mem_pixelReads.mp hkc
    dsimp only at he hc
    rw [slotValue]
    split
    · next hik =>
      rw [hc, h.source_unchanged hd hst (List.mem_of_getElem? he), memElems, ← hik, he]
    · next hik =>
      refine hgot i fun hmem => ?_
      have hmem := ((hperm.map Prod.fst).mem_iff.mpr hmem)
      rw [List.map_cons, List.mem_cons] at hmem
      exact hmem.elim (fun hki => hik hki.symm) hi
  exact h.restage hstage fun w hw => iff_of_true (howes w hw) (by rw [hst]; trivial)

/-- A pixel with nothing to read turns to its writes. -/
theorem Underway.turn (h : Underway op x m₀ m (px :: others)) {got : List (Nat × Word)}
    (hst : px.stage = .reading [] got) :
    Underway op x m₀ m ({ px with stage := afterRead op x px [] got } :: others) := by
  have hok := (List.forall_mem_cons.mp h.stages).1
  rw [hst] at hok
  obtain ⟨htodo, hgot⟩ | _ := hok
  obtain ⟨hstage, howes⟩ := stageOk_afterRead (px := px) htodo hgot
  exact h.restage hstage fun w hw => iff_of_true (howes w hw) (by rw [hst]; trivial)

/-- A write of pixel (q, y) shares no byte with any other write of the job. -/
theorem jobStores_apart_of_ne (hd : ElemsDisjoint op x) {q y q' y' : Nat} (hpx : x.HasPixel q y)
    (hpx' : x.HasPixel q' y') {w w' : Store} (hw : w ∈ jobStores op x m₀ q y) (hw' : w' ∈ jobStores op x m₀ q' y')
    (hne : (q, y) = (q', y') → w ≠ w') : w.access.Apart w'.access := by
  by_cases hxy : (q, y) = (q', y')
  · cases hxy
    have : Std.Symm fun w w' : Store => w.access.Apart w'.access := ⟨fun _ _ => Access.Apart.symm⟩
    exact (jobStores_apart hd m₀ hpx).forall hw hw' (hne rfl)
  · obtain ⟨e, he, hacc⟩ := access_of_mem_jobStores hw
    obtain ⟨e', he', hacc'⟩ := access_of_mem_jobStores hw'
    rw [hacc, hacc']
    exact hd.dstDst hpx hpx' hxy e he e' he'

/-- A write lands (R102, R109). -/
theorem Underway.write (hd : ElemsDisjoint op x) (h : Underway op x m₀ m (px :: others)) {n : Nat}
    {left rest : List Store} {w : Store} (hst : px.stage = .writing left) (hp : pick n left = some (w, rest)) :
    Underway op x m₀ (m.write w) ({ px with stage := .writing rest } :: others) := by
  obtain ⟨hpx, hothers⟩ := List.forall_mem_cons.mp h.inJob
  obtain ⟨hok, hstages⟩ := List.forall_mem_cons.mp h.stages
  rw [hst] at hok
  obtain _ | ⟨hleft⟩ := hok
  have hperm := pick_perm hp
  have hsub : (w :: rest).Subperm (jobStores op x m₀ px.x px.y) := hperm.subperm.trans hleft
  have hw : w ∈ jobStores op x m₀ px.x px.y := hsub.subset List.mem_cons_self
  have hpend : ∀ {q y v}, Pending (px :: others) q y v ↔
      ((px.x, px.y) = (q, y) ∧ v = w) ∨ Pending ({ px with stage := .writing rest } :: others) q y v := by
    intro q y v
    rw [pending_cons, pending_cons, hst, ← or_assoc, ← and_or_left]
    refine or_congr (and_congr_right fun _ => ?_) Iff.rfl
    exact (hperm.mem_iff (a := v)).symm.trans List.mem_cons
  have hgone : ∀ a, w.access.covers a = true →
      ¬Pending ({ px with stage := .writing rest } :: others) px.x px.y w := by
    intro a ha hpw
    rcases pending_cons.mp hpw with ⟨-, hrest⟩ | ho
    · obtain ⟨l, hl, hls⟩ := hsub
      have hpair := (hl.pairwise_iff fun h => h.symm).mp ((jobStores_apart hd m₀ hpx).sublist hls)
      have hself := (List.pairwise_cons.mp hpair).1 w hrest a ha
      rw [ha] at hself
      cases hself
    · exact h.not_pending_others w ho
  refine ⟨List.forall_mem_cons.mpr ⟨hpx, hothers⟩,
    List.forall_mem_cons.mpr ⟨.writing ((List.sublist_cons_self w rest).subperm.trans hsub), hstages⟩, h.distinct,
    fun hwf => Memory.wf_write (h.wf hwf) w, fun a ha => ?_, fun hwf q y v hpx' hv hn => ?_⟩
  · by_cases hc : w.access.covers a = true
    · exact ⟨px.x, px.y, w, hpx, hw, hc, hgone a hc⟩
    · rw [Memory.byte_write_other m w (by simpa using hc)] at ha
      obtain ⟨q, y, v, hpx', hv, hcov, hn⟩ := h.changed a ha
      exact ⟨q, y, v, hpx', hv, hcov, fun hp' => hn (hpend.mpr (.inr hp'))⟩
  · by_cases hvw : (px.x, px.y) = (q, y) ∧ v = w
    · rw [hvw.2]
      exact Memory.read_write_same (h.wf hwf) w
    · have hapart := jobStores_apart_of_ne hd hpx' hpx hv hw fun hxy e => hvw ⟨hxy.symm, e⟩
      rw [Memory.read_congr fun a ha => Memory.byte_write_other m w (hapart a ha)]
      exact h.landed hwf q y v hpx' hv fun hp' => (hpend.mp hp').elim hvw hn

/-- A write that lands, with the pixel gone after its last. -/
theorem Underway.afterWrite (hd : ElemsDisjoint op x) (h : Underway op x m₀ m (px :: others)) {n : Nat}
    {left rest : List Store} {w : Store} (hst : px.stage = .writing left) (hp : pick n left = some (w, rest)) :
    Underway op x m₀ (m.write w) (afterWrite px rest others) := by
  have hw := h.write hd hst hp
  cases rest with
  | nil => exact hw.drop rfl
  | cons v l => exact hw

end

end Sys2Proof.Machine
end

section
/-! PROOFS. The run of a buffer job (R320, R503): from the passed check to DONE or to the access that faults. -/

namespace Sys2Proof.Machine

/-! ### The states of a traversal -/

/-- `s` with the memory, the choices left and the elements of earlier jobs that accesses leave. -/
def State.accessed (s : State) (m : Memory) (tape : List (Nat × Nat)) (past : List ElemPlan) : State :=
  { s with mem := m, env := { s.env with tape := tape, past := past } }

/-- An access of the job: a read of a source element of a pixel, or a write of a destination element. -/
structure JobAccess (op : JobOp) (x : JobCtx) (e : ElemRef) (q y : Nat) (isWrite : Bool) : Prop where
  pixel : x.HasPixel q y
  elem : isWrite = false ∧ e ∈ op.srcElems x ∨ isWrite = true ∧ e ∈ op.dstElems x

/-- What a traversal that starts in `s` comes to: it runs, it has ended in DONE with every pixel written, or an access has
faulted. -/
inductive Traversal (op : JobOp) (x : JobCtx) (s : State) : State → Prop where
  | running {m : Memory} {tape : List (Nat × Nat)} {past : List ElemPlan} {cur : List Pixel}
      (h : Underway op x s.mem m cur) : Traversal op x s ((s.accessed m tape past).traversing x.args cur)
  | done {m : Memory} {tape : List (Nat × Nat)} {past : List ElemPlan} (h : Underway op x s.mem m []) :
      Traversal op x s (s.accessed m tape past).settled.complete
  | bus {m : Memory} {tape : List (Nat × Nat)} {past : List ElemPlan} {cur : List Pixel} {e : ElemRef} {q y : Nat}
      {isWrite : Bool} (h : Underway op x s.mem m cur) (ha : JobAccess op x e q y isWrite)
      (hf : busFault s.cfg (e.access q y) isWrite = true) :
      Traversal op x s ((s.accessed m tape past).busEntry (e.addr q y))

/-- The job record plays no part in a bus error. -/
theorem busEntry_traversing (s : State) (a : Regs) (cur : List Pixel) (addr : Nat) :
    (s.traversing a cur).busEntry addr = s.busEntry addr := by
  rw [State.busEntry, State.traversing, State.settled_update s _ s.lut s.pixOut]
  simp [State.busEntry, State.errorEntry]

/-- A write that lands leaves the traversal, but for memory and what earlier jobs wrote there. -/
theorem storeElem_accessed (s : State) (m : Memory) (tape : List (Nat × Nat)) (past : List ElemPlan) (w : Store) :
    (s.accessed m tape past).storeElem w
      = s.accessed (m.write w) tape (past.filter fun p => !w.access.covers p.dst.addr) := rfl

section
variable {op : JobOp} {x : JobCtx} {s : State}

/-- Every access of a traversal leads to a state of the traversal. -/
theorem Traversal.pixelStep (hd : ElemsDisjoint op x) {m : Memory} {tape : List (Nat × Nat)} {past : List ElemPlan}
    {cur others : List Pixel} {px : Pixel} (h : Underway op x s.mem m (px :: others)) (n : Nat) :
    Traversal op x s (pixelStep op x ⟨x.args, .traverse, cur⟩ n px others
      ((s.accessed m tape past).traversing x.args cur)) := by
  have hpx := h.inJob px List.mem_cons_self
  have hok := (List.forall_mem_cons.mp h.stages).1
  unfold Machine.pixelStep
  split
  · next todo got hst =>
    rw [hst] at hok
    obtain ⟨htodo, -⟩ | _ := hok
    split
    · next hp =>
      rcases pick_cases n todo with ⟨rfl, -⟩ | ⟨v, rest, hv, -⟩
      · exact .running (h.turn hst)
      · rw [hp] at hv; cases hv
    · next k c rest hp =>
      split
      · next hf =>
        obtain ⟨e, he, hc⟩ := mem_pixelReads.mp (htodo _ ((pick_perm hp).mem_iff.mp List.mem_cons_self))
        dsimp only at hc
        rw [busEntry_traversing, hc]
        exact .bus h ⟨hpx, .inl ⟨rfl, List.mem_of_getElem? he⟩⟩ (hc ▸ hf)
      · exact .running (h.read hd hst hp)
  · next left hst =>
    rw [hst] at hok
    obtain _ | ⟨hleft⟩ := hok
    split
    · next hp =>
      rcases pick_cases n left with ⟨rfl, -⟩ | ⟨v, rest, hv, -⟩
      · exact .running (h.drop hst)
      · rw [hp] at hv; cases hv
    · next w rest hp =>
      split
      · next hf =>
        obtain ⟨e, he, hacc⟩ :=
          access_of_mem_jobStores (hleft.subset ((pick_perm hp).mem_iff.mp List.mem_cons_self))
        rw [busEntry_traversing, show w.addr = e.addr px.x px.y from congrArg Access.addr hacc]
        exact .bus h ⟨hpx, .inr ⟨rfl, he⟩⟩ (hacc ▸ hf)
      · exact .running (past := past.filter fun p => !w.access.covers p.dst.addr) (h.afterWrite hd hst hp)

/-- An engine step of a traversal leads to a state of the traversal. -/
theorem Traversal.step (hd : ElemsDisjoint op x) (hcfg : x.cfg = s.cfg) {c : Cmd} (hf : resolve c = some x.f) {j : Job}
    {u : State} (hj : u.job = some j) (h : Traversal op x s u) : Traversal op x s (engineStep op c j u) := by
  obtain @⟨m, tape, past, cur, h⟩ | _ | _ := h
  · cases hj
    have hx : (⟨((s.accessed m tape past).traversing x.args cur).cfg, x.args, x.f⟩ : JobCtx) = x := by
      obtain ⟨cfg, a, f⟩ := x
      cases hcfg
      rfl
    simp only [engineStep, hf]
    rw [hx]
    unfold accessStep
    dsimp only
    split
    · next hp =>
      rw [complete_settled_traversing]
      rcases pick_cases (((s.accessed m tape past).traversing x.args cur).env.tape.headD (0, 0)).1 cur with
        ⟨rfl, -⟩ | ⟨v, rest, hv, -⟩
      · exact .done h
      · rw [hp] at hv; cases hv
    · next px others hp => exact Traversal.pixelStep hd (tape := tape.tail) (h.perm (pick_perm hp).symm) _
  · cases hj
  · cases hj

end

/-! ### The start of the traversal -/

theorem nodup_rowMajor (x : JobCtx) : (rowMajor x fun q y => (q, y)).Nodup := by
  refine List.nodup_flatMap.mpr ⟨fun y _ => List.nodup_range.map fun q q' h => congrArg Prod.fst h,
    List.nodup_range.imp fun {y y'} hne => ?_⟩
  rw [Function.onFun, List.disjoint_left]
  intro p hp hp'
  obtain ⟨q, -, rfl⟩ := List.mem_map.mp hp
  obtain ⟨q', -, h⟩ := List.mem_map.mp hp'
  exact hne (congrArg Prod.snd h).symm

theorem map_rowMajor {α β : Type} (x : JobCtx) (g : Nat → Nat → α) (k : α → β) :
    (rowMajor x g).map k = rowMajor x fun q y => k (g q y) := by
  simp only [rowMajor, List.map_flatMap, List.map_map, Function.comp_def]

/-- The cursor holds every pixel, with all its reads before it (R79). -/
theorem underway_start (op : JobOp) (x : JobCtx) (m : Memory) : Underway op x m m (cursorOf op x) where
  inJob px hpx := by
    obtain ⟨q, y, hq, hy, rfl⟩ := mem_rowMajor.mp hpx
    exact ⟨hq, hy⟩
  stages px hpx := by
    obtain ⟨q, y, -, -, rfl⟩ := mem_rowMajor.mp hpx
    refine .reading (fun _ h => h) fun k hk => ?_
    have hnone : (op.srcElems x)[k]? = none := by
      by_contra hne
      obtain ⟨e, he⟩ := Option.ne_none_iff_exists'.mp hne
      exact hk (List.mem_map.mpr ⟨(k, e.access q y), mem_pixelReads.mpr ⟨e, he, rfl⟩, rfl⟩)
    simp only [memElems, hnone, slotValue]
  distinct := by
    rw [cursorOf, map_rowMajor]
    exact nodup_rowMajor x
  wf h := h
  changed a h := absurd rfl h
  landed _ q y w hpx _ hn := absurd
    ⟨newPixel op x q y, mem_rowMajor.mpr ⟨q, y, hpx.1, hpx.2, rfl⟩, rfl, trivial⟩ hn

/-- What every step of a run to the job's end keeps holds at the end. -/
theorem Finishes.invariant {g : Job → State → State} {P : State → Prop} (hg : ∀ j s, s.job = some j → P s → P (g j s))
    {s t : State} (h : Finishes g s t) (hs : P s) : P t := by
  obtain ⟨n, rfl, -⟩ := h
  exact engineRun_invariant hg n s hs

/-- Where no host action comes, every command's job comes to an end. -/
theorem finishes_exists (op : JobOp) (c : Cmd) (s : State) : ∃ t, Finishes (engineStep op c) s t := by
  cases hj : s.job with
  | none => exact ⟨s, .ended hj⟩
  | some j =>
    refine ⟨_, stepsLeft op c s.cfg j, rfl, engineRun_ends op c _ s fun k hk => ?_⟩
    obtain rfl := Option.some.inj (hj.symm.trans hk)
    exact Nat.le_refl _

/-- The start of a job's traversal: the table is filled if the job needs it (R202). -/
def State.filled (s : State) (op : JobOp) (x : JobCtx) : State := { s with lut := lutAfter op x s.lut }

/-- What a buffer job whose checks pass comes to (R320): DONE with every pixel written, or an access that faults. -/
theorem exec_traversal {i : Instr} {op : JobOp} {c : Cmd} {f : Fields} {s : State} {j : Job}
    (hi : jobOf i = some (op, c)) (hs : Started s j) (hf : resolve c = some f) (hx : addressed (ctxOf s j f) = true)
    (hok : firstErr op (ctxOf s j f) = none) :
    ∃ t, exec i s = .next t ∧ t.job = none
      ∧ Traversal op (ctxOf s j f) (s.filled op (ctxOf s j f)) t := by
  have hd := disjoint_of_firstErr (traced_of_jobOf hi) (placed_of_jobOf hi) hx hok
  let u : State := s.filled op (ctxOf s j f)
  obtain ⟨t, ht⟩ := finishes_exists op c (u.traversing j.args (cursorOf op (ctxOf s j f)))
  have hstart : Traversal op (ctxOf s j f) u (u.traversing j.args (cursorOf op (ctxOf s j f))) :=
    Traversal.running (m := s.mem) (tape := s.env.tape) (past := s.env.past) (underway_start op (ctxOf s j f) s.mem)
  refine ⟨t, exec_of_finishes hi hs (finishes_of_traversing hs hf hx hok ht), ?_,
    ht.invariant (P := Traversal op (ctxOf s j f) u) (fun k v hk hv => hv.step (s := u) hd rfl hf hk) hstart⟩
  obtain ⟨n, rfl, hn⟩ := ht
  exact hn

/-! ### What the end of a traversal holds -/

/-- Settling leaves every byte that no race costs. -/
theorem settled_byte {s : State} {b : Nat} (h : ¬Raced s b) : s.settled.mem.byte b = s.mem.byte b := by
  obtain ⟨m, heq, hout, -⟩ := State.drawBytes_spec s.env.doomed s
  rw [State.settled, heq]
  exact hout b h

theorem settled_read {s : State} {c : Access} (h : ∀ b, c.covers b = true → ¬Raced s b) :
    s.settled.mem.read c = s.mem.read c :=
  Memory.read_congr fun b hb => settled_byte (h b hb)

/-- R109: a traversal changes no byte outside the destination. -/
theorem Underway.outside {op : JobOp} {x : JobCtx} {m₀ m : Memory} {cur : List Pixel} (h : Underway op x m₀ m cur)
    {a : Nat} (ha : OutsideDst op x a) : m.byte a = m₀.byte a := by
  by_contra hne
  obtain ⟨q, y, w, hpx, hw, hc, -⟩ := h.changed a hne
  obtain ⟨e, he, hacc⟩ := access_of_mem_jobStores hw
  rw [hacc, ha q y e hpx.1 hpx.2 he] at hc
  cases hc

/-- With every pixel written, every element holds its value. -/
theorem Underway.all_landed {op : JobOp} {x : JobCtx} {m₀ m : Memory} (h : Underway op x m₀ m []) (hwf : m₀.wf = true)
    {q y : Nat} (hpx : x.HasPixel q y) {w : Store} (hw : w ∈ jobStores op x m₀ q y) :
    m.read w.access = lowBytes w.size w.value :=
  h.landed hwf q y w hpx hw fun ⟨_, hmem, _⟩ => List.not_mem_nil hmem

/-- Where the platform marks no access, a job whose checks pass makes none that faults. -/
theorem JobAccess.faultFree {op : JobOp} {x : JobCtx} (ht : op.Traced) (hp : op.Placed) (hfree : FaultFree x.cfg)
    (hx : addressed x = true) (hok : firstErr op x = none) {e : ElemRef} {q y : Nat} {isWrite : Bool}
    (h : JobAccess op x e q y isWrite) : busFault x.cfg (e.access q y) isWrite = false := by
  obtain ⟨hl, ha, haddr⟩ := firstErr_none hok
  obtain ⟨⟨hq, hy⟩, helem⟩ := h
  have hin : e.inPixel = true ∧ e.buf ∈ arguments op x := by
    rcases helem with ⟨-, he⟩ | ⟨-, he⟩
    · exact ⟨ht.srcInPixel x hl ha e he, List.mem_append_left _ (hp.srcBuf x (imm_of_addressed hx) e he)⟩
    · exact ⟨ht.dstInPixel x hl ha e he, List.mem_append_right _ (hp.dstBuf x e he)⟩
  exact busFault_faultFree hfree
    (le_trans (ElemRef.end_le_spanEnd hin.1 hq hy) (spanEnd_le_of_addressErr_none (haddr hx) hin.2)) _

/-- Settles O19: with no fault the traversal ends in DONE, with every write landed and no other byte changed. -/
theorem bufferJobWritesEveryElement : Obligations.BufferJobWritesEveryElement := by
  intro i op c f s j hi hs hf hwf hfree x hx hok
  obtain ⟨hl, ha, -⟩ := firstErr_none hok
  have hp := placed_of_jobOf hi
  refine ⟨fun v => hp.bodyLength x v hl ha, ?_⟩
  obtain ⟨t, hexec, hend, htrav⟩ := exec_traversal hi hs hf hx hok
  obtain _ | @⟨m, tape, past, h⟩ | ⟨h, hacc, hfault⟩ := htrav
  · cases hend
  · refine ⟨_, hexec, rfl, rfl, State.settled_err _, State.settled_regs _, State.settled_pixOut _,
      State.settled_errInfoLo _, State.settled_errInfoHi _, State.settled_lut _,
      fun q y k e v hq hy he hv hrace => ?_, fun a ha hrace => ?_⟩
    · exact (settled_read (s := (s.filled op x).accessed m tape past) hrace).trans
        (h.all_landed hwf ⟨hq, hy⟩ (mem_jobStores_of_getElem? he hv))
    · exact (settled_byte (s := (s.filled op x).accessed m tape past) hrace).trans (h.outside ha)
  · have := hacc.faultFree (traced_of_jobOf hi) hp hfree hx hok
    exact absurd (this.symm.trans hfault) Bool.false_ne_true

end Sys2Proof.Machine
end

section
/-! PROOFS. What a command leaves of memory, whatever its job comes to (R109, R330, R519; O32), and the access that faults
(R117, R519; O29). -/

namespace Sys2Proof.Machine

/-! ### Jobs that make no access -/

/-- R522: an ending without an access leaves memory as settling does. -/
theorem finishStep_mem (op : JobOp) (x : JobCtx) (s : State) (k : Option Job) :
    (finishStep op x { s with job := k }).mem = s.settled.mem := by
  rw [finishStep, State.settled_update s k s.lut s.pixOut]
  cases x.f.imm <;> rfl

/-- A job with no access ends after its check (R522). -/
theorem exec_finish {i : Instr} {op : JobOp} {c : Cmd} {f : Fields} {s : State} {j : Job} (hi : jobOf i = some (op, c))
    (hs : Started s j) (hf : resolve c = some f) (hx : addressed (ctxOf s j f) = false)
    (hok : firstErr op (ctxOf s j f) = none) :
    exec i s = .next (finishStep op (ctxOf s j f) { s with job := some { j with phase := .finish, cursor := [] } }) := by
  have hcheck : engineStep op c j s = { s with job := some { j with phase := .finish, cursor := [] } } := by
    rw [engineStep_check hf hs.unchecked hok, nextPhase, hx]
    rfl
  refine exec_of_finishes hi hs (.step hs.running ?_)
  rw [hcheck]
  refine .last rfl (engineStep_finish _ hf rfl) ?_
  unfold finishStep
  split <;> rfl

/-- A job that makes no access, or that a check refuses, leaves memory as settling does (R511, R520). -/
theorem exec_mem_of_no_access {i : Instr} {op : JobOp} {c : Cmd} {f : Fields} {s t : State} {j : Job}
    (hi : jobOf i = some (op, c)) (hs : Started s j) (hf : resolve c = some f) (ht : exec i s = .next t)
    (h : addressed (ctxOf s j f) = false ∨ firstErr op (ctxOf s j f) ≠ none) : t.mem = s.settled.mem := by
  cases hok : firstErr op (ctxOf s j f) with
  | some e =>
    rw [exec_of_firstErr hi hs hf hok] at ht
    cases ht
    rfl
  | none =>
    rw [exec_finish hi hs hf (h.resolve_right fun hne => hne hok) hok] at ht
    cases ht
    exact finishStep_mem op _ s _

/-! ### Memory at the end of a traversal -/

/-- However a traversal ends, memory is what settling leaves of some memory on the way. -/
theorem Traversal.ended {op : JobOp} {x : JobCtx} {s t : State} (h : Traversal op x s t) (hj : t.job = none) :
    ∃ m tape past cur, Underway op x s.mem m cur ∧ t.mem = (s.accessed m tape past).settled.mem := by
  obtain _ | @⟨m, tape, past, h⟩ | @⟨m, tape, past, cur, _, _, _, _, h, -, -⟩ := h
  · cases hj
  · exact ⟨m, tape, past, [], h, rfl⟩
  · exact ⟨m, tape, past, cur, h, rfl⟩

/-- Settles O32: a job that makes accesses keeps what lies outside its destination, and any other keeps all. -/
theorem commandsWriteOnlyTheirDestination : Obligations.CommandsWriteOnlyTheirDestination := by
  intro i op c f s j hi hs hf t ht x
  refine ⟨fun a ha hrace => ?_, exec_mem_of_no_access hi hs hf ht⟩
  by_cases h : addressed x = true ∧ firstErr op x = none
  · obtain ⟨u, hexec, hend, htrav⟩ := exec_traversal hi hs hf h.1 h.2
    cases ht.symm.trans hexec
    obtain ⟨m, tape, past, cur, hu, hmem⟩ := htrav.ended hend
    rw [hmem]
    exact (settled_byte (s := (s.filled op x).accessed m tape past) hrace).trans (hu.outside ha)
  · rw [not_and_or, Bool.not_eq_true] at h
    rw [exec_mem_of_no_access hi hs hf ht h]
    exact settled_byte hrace

/-! ### The next access faults (R519) -/

/-- An engine step that ends the job is the command's meaning. -/
theorem exec_of_last {i : Instr} {op : JobOp} {c : Cmd} (hi : jobOf i = some (op, c)) {s t : State} {j : Job}
    (hj : s.job = some j) (hin : s.env.inputs = []) (h : engineStep op c j s = t) (ht : t.job = none) :
    exec i s = .next t := by
  obtain ⟨n, hexec, hend⟩ := exec_alone hi (hj ▸ Option.some_ne_none j) hin
  rw [hexec, Finishes.unique ⟨n, rfl, hend⟩ (.last hj h ht)]

theorem pixelStep_readFault {op : JobOp} {x : JobCtx} {j : Job} {n : Nat} {px : Pixel} {others : List Pixel} {s : State}
    {todo rest : List (Nat × Access)} {got : List (Nat × Word)} {k : Nat} {d : Access}
    (hst : px.stage = .reading todo got) (hp : pick n todo = some ((k, d), rest)) (hf : busFault s.cfg d false = true) :
    pixelStep op x j n px others s = s.busEntry d.addr := by
  simp only [pixelStep, hst, hp, hf, if_true]

theorem pixelStep_writeFault {op : JobOp} {x : JobCtx} {j : Job} {n : Nat} {px : Pixel} {others : List Pixel} {s : State}
    {left rest : List Store} {w : Store} (hst : px.stage = .writing left) (hp : pick n left = some (w, rest))
    (hf : busFault s.cfg w.access true = true) : pixelStep op x j n px others s = s.busEntry w.addr := by
  simp only [pixelStep, hst, hp, hf, if_true]

/-- A job in its traversal moves the pixel that the tape chooses (R375). -/
theorem engineStep_pick {op : JobOp} {c : Cmd} {f : Fields} {s : State} {j : Job} (hf : resolve c = some f)
    (hp : j.phase = .traverse) {px : Pixel} {others : List Pixel}
    (hpick : pick (s.env.tape.headD (0, 0)).1 j.cursor = some (px, others)) :
    engineStep op c j s = pixelStep op (ctxOf s j f) j (s.env.tape.headD (0, 0)).2 px others
      { s with env := { s.env with tape := s.env.tape.tail } } := by
  simp only [engineStep, hf, hp, accessStep, hpick, ctxOf]

/-! ### Faults in a job of any size -/

/-- What a pixel still owes is as at the start (R109). -/
theorem Underway.pending_unchanged {op : JobOp} {x : JobCtx} {m₀ m : Memory} {cur : List Pixel} (hd : ElemsDisjoint op x)
    (h : Underway op x m₀ m cur) {q y : Nat} (hpx : x.HasPixel q y) {w : Store} (hw : w ∈ jobStores op x m₀ q y)
    (hp : Pending cur q y w) : m.read w.access = m₀.read w.access := by
  refine Memory.read_congr fun a ha => ?_
  by_contra hne
  obtain ⟨q', y', w', hpx', hw', hc, hn⟩ := h.changed a hne
  have hapart := jobStores_apart_of_ne hd hpx hpx' hw hw' (fun hxy hww => by
    cases hxy
    exact hn (hww ▸ hp)) a ha
  rw [hc] at hapart
  cases hapart

/-- Each destination element holds its value, or what it held before. -/
theorem Underway.landed_or_unchanged {op : JobOp} {x : JobCtx} {m₀ m : Memory} {cur : List Pixel}
    (hd : ElemsDisjoint op x) (h : Underway op x m₀ m cur) (hwf : m₀.wf = true) {q y : Nat} (hpx : x.HasPixel q y)
    {w : Store} (hw : w ∈ jobStores op x m₀ q y) :
    m.read w.access = lowBytes w.size w.value ∨ m.read w.access = m₀.read w.access := by
  by_cases hp : Pending cur q y w
  · exact .inr (h.pending_unchanged hd hpx hw hp)
  · exact .inl (h.landed hwf q y w hpx hw hp)

/-! ### Faults in a job of one pixel, in the order of its elements -/

section
variable {op : JobOp} {c : Cmd} {f : Fields} {a : Regs} (hf : resolve c = some f) (q y : Nat)
include hf

/-- The first read that faults ends the job. -/
theorem finishes_readFault {s : State} (ht : s.env.tape = []) {k : Nat} {r : Access} {rest : List (Nat × Access)}
    (hr : busFault s.cfg r false = true) : ∀ (before : List (Nat × Access)) (got : List (Nat × Word)),
    (∀ p ∈ before, busFault s.cfg p.2 false = false) →
    Finishes (engineStep op c) (s.traversing a [⟨q, y, .reading (before ++ (k, r) :: rest) got⟩]) (s.busEntry r.addr)
  | [], got, _ => by
    refine .last rfl ?_ rfl
    rw [engineStep_firstPixel hf ht]
    exact (pixelStep_readFault (s := s.traversing a _) rfl (pick_zero_cons (k, r) rest) hr).trans
      (busEntry_traversing s a _ _)
  | (i, d) :: before, got, hb => by
    obtain ⟨hok, hrest⟩ := List.forall_mem_cons.mp hb
    refine .step rfl ?_
    rw [List.cons_append, engineStep_read hf ht rfl hok]
    cases before with
    | nil => exact finishes_readFault ht hr [] _ hrest
    | cons p l => exact finishes_readFault ht hr (p :: l) _ hrest

/-- The first write that faults ends the job, with those before it landed. -/
theorem finishes_writeFault {w : Store} {rest : List Store} : ∀ (before : List Store) (s : State), s.env.tape = [] →
    (∀ v ∈ before, busFault s.cfg v.access true = false) → busFault s.cfg w.access true = true →
    Finishes (engineStep op c) (s.traversing a [⟨q, y, .writing (before ++ w :: rest)⟩])
      ((before.foldl State.storeElem s).busEntry w.addr)
  | [], s, ht, _, hw => by
    refine .last rfl ?_ rfl
    rw [engineStep_firstPixel hf ht]
    exact (pixelStep_writeFault (s := s.traversing a _) rfl (pick_zero_cons w rest) hw).trans
      (busEntry_traversing s a _ _)
  | v :: before, s, ht, hb, hw => by
    obtain ⟨hok, hrest⟩ := List.forall_mem_cons.mp hb
    refine .step rfl ?_
    rw [List.cons_append, engineStep_write hf ht rfl hok]
    cases before with
    | nil => exact finishes_writeFault [] (s.storeElem v) ht hrest hw
    | cons u l => exact finishes_writeFault (u :: l) (s.storeElem v) ht hrest hw

end

theorem mem_pixelReads_snd {op : JobOp} {x : JobCtx} {q y : Nat} {p : Nat × Access} (h : p ∈ pixelReads op x q y) :
    ∃ e ∈ op.srcElems x, p.2 = e.access q y := by
  obtain ⟨e, he, hp⟩ := mem_pixelReads.mp h
  exact ⟨e, List.mem_of_getElem? he, hp⟩

/-- The reads of a pixel, at one of its elements. -/
theorem pixelReads_split {op : JobOp} {x : JobCtx} {q y : Nat} {before rest : List ElemRef} {e : ElemRef}
    (h : op.srcElems x = before ++ e :: rest) : ∃ l k l', pixelReads op x q y = l ++ (k, e.access q y) :: l'
      ∧ ∀ p ∈ l, ∃ d ∈ before, p.2 = d.access q y := by
  refine ⟨before.zipIdx.map fun p => (p.2, p.1.access q y), before.length,
    (rest.zipIdx (before.length + 1)).map fun p => (p.2, p.1.access q y), ?_, fun p hp => ?_⟩
  · rw [pixelReads, h, List.zipIdx_append, List.map_append, Nat.zero_add, List.zipIdx_cons, List.map_cons]
  · obtain ⟨z, hz, rfl⟩ := List.mem_map.mp hp
    exact ⟨z.1, List.fst_mem_of_mem_zipIdx hz, rfl⟩

/-- The writes of a pixel, at one of its elements. -/
theorem pixelStores_split {op : JobOp} {x : JobCtx} {q y : Nat} {v : Nat → Word} {before rest : List ElemRef} {e : ElemRef}
    (h : op.dstElems x = before ++ e :: rest) (hlen : (op.body x v).length = (op.dstElems x).length) :
    ∃ u l', pixelStores op x q y v = (pixelStores op x q y v).take before.length ++ ⟨e.addr q y, e.buf.unit, u⟩ :: l'
      ∧ ∀ w ∈ (pixelStores op x q y v).take before.length, ∃ d ∈ before, w.access = d.access q y := by
  obtain ⟨vs, us, hbody, hvs⟩ : ∃ vs us, op.body x v = vs ++ us ∧ vs.length = before.length := by
    refine ⟨(op.body x v).take before.length, (op.body x v).drop before.length, (List.take_append_drop _ _).symm, ?_⟩
    rw [List.length_take, hlen, h, List.length_append]
    omega
  cases us with
  | nil =>
    rw [hbody, h, List.append_nil, List.length_append, hvs, List.length_cons] at hlen
    omega
  | cons u us =>
    have hsplit : pixelStores op x q y v
        = List.zipWith (fun e w => ⟨e.addr q y, e.buf.unit, w⟩) before vs ++ ⟨e.addr q y, e.buf.unit, u⟩
          :: List.zipWith (fun e w => ⟨e.addr q y, e.buf.unit, w⟩) rest us := by
      rw [pixelStores, h, hbody, List.zipWith_append hvs.symm, List.zipWith_cons_cons]
    have htake : (pixelStores op x q y v).take before.length
        = List.zipWith (fun e w => ⟨e.addr q y, e.buf.unit, w⟩) before vs := by
      rw [hsplit]
      exact List.take_left' (by rw [List.length_zipWith, hvs, Nat.min_self])
    refine ⟨u, _, htake ▸ hsplit, fun w hw => ?_⟩
    rw [htake, ← List.map_uncurry_zip_eq_zipWith] at hw
    obtain ⟨⟨d, z⟩, hz, rfl⟩ := List.mem_map.mp hw
    exact ⟨d, (List.of_mem_zip hz).1, rfl⟩

section
variable {i : Instr} {op : JobOp} {c : Cmd} {f : Fields} {s : State} {j : Job} (hi : jobOf i = some (op, c))
  (hs : Started s j) (hf : resolve c = some f) (hx : addressed (ctxOf s j f) = true)
  (hok : firstErr op (ctxOf s j f) = none) (ht : s.env.tape = []) (hw : j.args.width = 1#32) (hh : j.args.height = 1#32)
include hi hs hf hx hok ht hw hh

/-- A 1x1 job whose first read that faults is that of `e`. -/
theorem exec_onePixel_readFault {before rest : List ElemRef} {e : ElemRef}
    (hsplit : op.srcElems (ctxOf s j f) = before ++ e :: rest)
    (hbefore : ∀ d ∈ before, busFault s.cfg (d.access 0 0) false = false)
    (hfault : busFault s.cfg (e.access 0 0) false = true) :
    exec i s = .next ((s.filled op (ctxOf s j f)).busEntry (e.addr 0 0)) := by
  refine exec_of_finishes hi hs (finishes_of_traversing hs hf hx hok ?_)
  rw [cursorOf_onePixel hw hh, newPixel]
  obtain ⟨l, k, l', hreads, hl⟩ := pixelReads_split (q := 0) (y := 0) hsplit
  rw [hreads]
  refine finishes_readFault (s := s.filled op (ctxOf s j f)) hf 0 0 ht hfault l [] fun p hp => ?_
  obtain ⟨d, hd, hpd⟩ := hl p hp
  rw [hpd]
  exact hbefore d hd

/-- A 1x1 job whose reads do not fault, and whose first write that does is that of `e`. -/
theorem exec_onePixel_writeFault {before rest : List ElemRef} {e : ElemRef}
    (hsplit : op.dstElems (ctxOf s j f) = before ++ e :: rest)
    (hreads : ∀ d ∈ op.srcElems (ctxOf s j f), busFault s.cfg (d.access 0 0) false = false)
    (hbefore : ∀ d ∈ before, busFault s.cfg (d.access 0 0) true = false)
    (hfault : busFault s.cfg (e.access 0 0) true = true) :
    exec i s = .next (State.busEntry
      (((pixelStores op (ctxOf s j f) 0 0 (memElems op (ctxOf s j f) s.mem 0 0)).take before.length).foldl
        State.storeElem (s.filled op (ctxOf s j f))) (e.addr 0 0)) := by
  obtain ⟨hl, ha, -⟩ := firstErr_none hok
  refine exec_of_finishes hi hs (finishes_of_traversing hs hf hx hok ?_)
  rw [cursorOf_onePixel hw hh]
  refine finishes_reads (s := s.filled op (ctxOf s j f)) hf 0 0 ht (pixelReads op (ctxOf s j f) 0 0) [] (fun p hp => ?_) ?_
  · obtain ⟨d, hd, hpd⟩ := mem_pixelReads_snd hp
    rw [hpd]
    exact hreads d hd
  · rw [slotValue_pixelReads]
    obtain ⟨u, l', hstores, hbeforeStores⟩ := pixelStores_split (q := 0) (y := 0) hsplit
      ((placed_of_jobOf hi).bodyLength _ (memElems op (ctxOf s j f) s.mem 0 0) hl ha)
    refine Eq.mp (congrArg (fun l => Finishes (engineStep op c)
      ((s.filled op (ctxOf s j f)).traversing j.args [⟨0, 0, .writing l⟩]) _) hstores.symm) ?_
    refine finishes_writeFault hf 0 0 _ (s.filled op (ctxOf s j f)) ht (fun v hv => ?_) hfault
    obtain ⟨d, hd, hvd⟩ := hbeforeStores v hv
    rw [hvd]
    exact hbefore d hd

end

/-- Settles O29: the access that comes next, then a job of any size, then the order of a 1x1 job. -/
theorem busFaultEndsJob : Obligations.BusFaultEndsJob := by
  refine ⟨fun i op c f s j hi hf hj hp hin px others hpick => ?_, fun i op c f s j hi hs hf => ?_⟩
  · intro u stop n
    have hstep := engineStep_pick (op := op) hf hp hpick
    refine ⟨fun todo got k d rest hst hpk hfault => ?_, fun left w rest hst hpk hfault => ?_⟩
    · exact exec_of_last hi hj hin (hstep.trans (pixelStep_readFault hst hpk hfault)) rfl
    · exact exec_of_last hi hj hin (hstep.trans (pixelStep_writeFault hst hpk hfault)) rfl
  · intro x hx hok
    refine ⟨fun t hwf herr hexec hbus => ?_, fun ht hw hh => ⟨?_, ?_⟩⟩
    · obtain ⟨t', hexec', hend, htrav⟩ := exec_traversal hi hs hf hx hok
      cases hexec.symm.trans hexec'
      have hd := disjoint_of_firstErr (traced_of_jobOf hi) (placed_of_jobOf hi) hx hok
      obtain _ | _ | @⟨m, tape, past, cur, e, q, y, w, h, ⟨⟨hq, hy⟩, helem⟩, hfault⟩ := htrav
      · cases hend
      · rw [State.complete_err, State.settled_err] at hbus
        cases herr.symm.trans hbus
      · refine ⟨State.settled_done _, rfl, State.settled_lut _, ⟨q, y, e, w, hq, hy, helem, hfault, rfl, rfl⟩,
          fun q y k e v hq hy he hv hrace => ?_⟩
        have hread := settled_read (s := (s.filled op x).accessed m tape past) hrace
        exact (h.landed_or_unchanged hd hwf ⟨hq, hy⟩ (mem_jobStores_of_getElem? he hv)).imp hread.trans hread.trans
    · intro before e rest hsplit hbefore hfault
      exact exec_onePixel_readFault hi hs hf hx hok ht hw hh hsplit hbefore hfault
    · intro before e rest hsplit hreads hbefore hfault
      exact exec_onePixel_writeFault hi hs hf hx hok ht hw hh hsplit hreads hbefore hfault

end Sys2Proof.Machine
end

section
/-! PROOFS. The ALIGN, STRIDE and OVERLAP checks (R515, R516, R518): the first argument that fails is the one reported
(O25, O26, O28). -/

namespace Sys2Proof.Machine

/-! ### From an address check to the job's end -/

/-- A job whose earlier checks pass ends in the first address check that fails (R511). -/
theorem exec_of_addressErr {i : Instr} {op : JobOp} {c : Cmd} {f : Fields} {s : State} {j : Job} {e : CheckErr}
    (hi : jobOf i = some (op, c)) (hs : Started s j) (hf : resolve c = some f) (hl : op.legal (ctxOf s j f) = true)
    (hp : ∀ p ∈ checkedParams op (ctxOf s j f), isPosFinite (p.value j.args) = true)
    (ha : op.alpha (ctxOf s j f) = true) (hx : addressed (ctxOf s j f) = true)
    (he : addressErr op (ctxOf s j f) = some e) : exec i s = .next (s.settled.errorEntry e.code e.lo e.hi) :=
  exec_of_firstErr hi hs hf ((firstErr_eq_addressErr hl hp ha hx).trans he)

theorem addressErr_of_align {op : JobOp} {x : JobCtx} {e : CheckErr} (h : alignErr (arguments op x) = some e) :
    addressErr op x = some e := by
  simp only [addressErr, h]

theorem addressErr_of_stride {op : JobOp} {x : JobCtx} {e : CheckErr} (ha : alignErr (arguments op x) = none)
    (h : strideErr x.args.width.toNat (arguments op x) = some e) : addressErr op x = some e := by
  simp only [addressErr, ha, h]

theorem addressErr_of_overlap {op : JobOp} {x : JobCtx} {e : CheckErr} (ha : alignErr (arguments op x) = none)
    (hs : strideErr x.args.width.toNat (arguments op x) = none)
    (hr : rangeErr (spaceSize x.cfg.addrW) x.args.width.toNat x.args.height.toNat (arguments op x) = none)
    (h : overlapErr x.args.width.toNat x.args.height.toNat (op.sources x) (op.dests x) = some e) :
    addressErr op x = some e := by
  simp only [addressErr, ha, hs, hr, h]

/-! ### Arguments that pass are passed over -/

theorem alignErr_append {l : List BufArg} : ∀ {pre : List BufArg},
    (∀ d ∈ pre, d.base % d.unit = 0 ∧ d.stride % d.unit = 0) → alignErr (pre ++ l) = alignErr l
  | [], _ => rfl
  | d :: pre, h => by
    obtain ⟨⟨hbase, hstride⟩, hrest⟩ := List.forall_mem_cons.mp h
    rw [List.cons_append, alignErr, if_neg (not_not.mpr hbase), if_neg (not_not.mpr hstride)]
    exact alignErr_append hrest

theorem strideErr_append {w : Nat} {l : List BufArg} : ∀ {pre : List BufArg}, (∀ d ∈ pre, w * d.bpp ≤ d.stride) →
    strideErr w (pre ++ l) = strideErr w l
  | [], _ => rfl
  | d :: pre, h => by
    obtain ⟨hd, hrest⟩ := List.forall_mem_cons.mp h
    rw [List.cons_append, strideErr, if_neg (Nat.not_lt.mpr hd)]
    exact strideErr_append hrest

theorem overlapWith_append {w h : Nat} {d : BufArg} {l : List BufArg} : ∀ {pre : List BufArg},
    (∀ b ∈ pre, (footprintsMeet w h d b && !inPlace d b) = false) → overlapWith w h d (pre ++ l) = overlapWith w h d l
  | [], _ => rfl
  | b :: pre, hpre => by
    obtain ⟨hb, hrest⟩ := List.forall_mem_cons.mp hpre
    rw [List.cons_append, overlapWith, if_neg (by rw [hb]; exact Bool.false_ne_true)]
    exact overlapWith_append hrest

/-- Destinations with no overlap join the arguments that come before the next. -/
theorem overlapErr_append {w h : Nat} {l : List BufArg} : ∀ {pre before : List BufArg},
    overlapErr w h before pre = none → overlapErr w h before (pre ++ l) = overlapErr w h (before ++ pre) l
  | [], before, _ => by rw [List.nil_append, List.append_nil]
  | d :: pre, before, hn => by
    rw [overlapErr] at hn
    rw [List.cons_append, overlapErr]
    split at hn
    · cases hn
    · rw [overlapErr_append hn, List.append_assoc, List.singleton_append]

/-- R518: sharing a byte, the in-place case apart. -/
theorem overlaps_iff {w h : Nat} {d b : BufArg} : (footprintsMeet w h d b && !inPlace d b) = true ↔
    (∃ a, InFootprint w h d a ∧ InFootprint w h b a)
      ∧ ¬(d.id = 2 ∧ b.id = 1 ∧ d.base = b.base ∧ d.stride = b.stride ∧ d.bpp = b.bpp) := by
  rw [Bool.and_eq_true, Bool.not_eq_true', ← Bool.not_eq_true, footprintsMeet_iff]
  simp only [inPlace, Bool.and_eq_true, decide_eq_true_eq, and_assoc]

/-! ### The statements -/

/-- Settles O25: the arguments before `b` are passed over, and its base is looked at before its stride. -/
theorem misalignedArgumentIsAlign : Obligations.MisalignedArgumentIsAlign := by
  intro i op c f s j hi hs hf x hl hp ha hx pre b post hargs hpre
  have halign : alignErr (arguments op x) = alignErr (b :: post) := by rw [hargs, alignErr_append hpre]
  refine ⟨fun hbase => ?_, fun hbase hstride => ?_⟩
  · exact exec_of_addressErr hi hs hf hl hp ha hx (addressErr_of_align (halign.trans (if_pos hbase)))
  · have hfirst : alignErr (b :: post) = some (infoErr .align (b.id + 2 ^ 8)) := by
      rw [alignErr, if_neg (not_not.mpr hbase), if_pos hstride]
    exact exec_of_addressErr hi hs hf hl hp ha hx (addressErr_of_align (halign.trans hfirst))

/-- Settles O26: the arguments before `b` are passed over. -/
theorem shortStrideIsStride : Obligations.ShortStrideIsStride := by
  intro i op c f s j hi hs hf x hl hp ha hx pre b post hargs halign hpre hb
  have hstride : strideErr j.args.width.toNat (arguments op x) = some (infoErr .stride b.id) := by
    rw [hargs, strideErr_append hpre]
    exact if_pos hb
  exact exec_of_addressErr hi hs hf hl hp ha hx (addressErr_of_stride halign hstride)

/-- Settles O28: the destinations before `d`, then the arguments before `y`, are passed over. -/
theorem overlapIsRefused : Obligations.OverlapIsRefused := by
  refine ⟨fun w h b d => footprintsMeet_iff, ?_⟩
  intro i op c f s j hi hs hf x hl hp ha hx halign w h hstride hrange dpre d dpost pre y post hdests hargs clash hdpre
    hpre hy
  have hwith : overlapWith w h d (pre ++ y :: post) = some (infoErr .overlap (d.id + y.id * 2 ^ 8)) := by
    rw [overlapWith_append fun b hb => Bool.eq_false_iff.mpr fun hm => hpre b hb (overlaps_iff.mp hm)]
    exact if_pos (overlaps_iff.mpr hy)
  have hover : overlapErr w h (op.sources x) (op.dests x) = some (infoErr .overlap (d.id + y.id * 2 ^ 8)) := by
    rw [hdests, overlapErr_append hdpre, hargs, overlapErr, hwith]
  exact exec_of_addressErr hi hs hf hl hp ha hx (addressErr_of_overlap halign hstride hrange hover)

end Sys2Proof.Machine
end

section
/-! PROOFS. The destination footprints of an accepted job (R106, R112, R152), and what a step does to the host's record
of ownership and coherence (R118). -/

namespace Sys2Proof.Machine

/-! ### The destination footprints of a job -/

/-- R112: the destination footprints are the rows of the buffers that every reading gives. -/
theorem mem_jobDests {cfg : Config} {a : Regs} {op : JobOp} {c : Cmd} (hfp : Footprinted cfg a op c) {d : Access} :
    d ∈ jobDests cfg a ↔ ∃ b y, (∀ f ∈ readings c, b ∈ op.dests ⟨cfg, a, f⟩) ∧ y < a.height.toNat
      ∧ d = rowRange a.width.toNat b y := by
  obtain ⟨f, rest, hr, hjob⟩ := footprintJob_eq hfp
  simp only [jobDests, hjob, footprintRows, List.mem_flatMap, List.mem_filter, List.all_map, List.all_eq_true, hr,
    List.forall_mem_cons, List.mem_map, List.mem_range, Function.comp_apply, decide_eq_true_eq]
  exact ⟨fun ⟨b, ⟨hb, hall⟩, y, hy, hd⟩ => ⟨b, y, ⟨hb, hall⟩, hy, hd.symm⟩,
    fun ⟨b, y, ⟨hb, hall⟩, hy, hd⟩ => ⟨b, ⟨hb, hall⟩, y, hy, hd.symm⟩⟩

/-- No destination rests on the curve, the alpha mode or the equality rule (R152). -/
theorem dests_reread {i : Instr} {op : JobOp} {c : Cmd} (h : jobOf i = some (op, c)) (x : JobCtx) (tf : Curve)
    (am : AlphaMode) (sp : EqSpace) : op.dests (x.reread tf am sp) = op.dests x := by
  cases i <;> cases h <;> rfl

/-- What every reading gives, every choice of the fields gives. -/
theorem forall_reads_dests {i : Instr} {op : JobOp} {c : Cmd} (h : jobOf i = some (op, c)) {cfg : Config} {a : Regs}
    {b : BufArg} : (∀ f, Reads c f → b ∈ op.dests ⟨cfg, a, f⟩) ↔ ∀ f ∈ readings c, b ∈ op.dests ⟨cfg, a, f⟩ := by
  refine ⟨fun hall f hf => hall f (reads_of_mem_readings hf), fun hall f hf => ?_⟩
  obtain ⟨g, hg, -, hx⟩ := reads_reread hf cfg a
  rw [hx, dests_reread h]
  exact hall g hg

/-- The bytes of the destination footprints are those of the rows. -/
theorem exists_jobDest_covers {cfg : Config} {a : Regs} {op : JobOp} {c : Cmd} (hfp : Footprinted cfg a op c)
    {b : BufArg} (hb : ∀ f ∈ readings c, b ∈ op.dests ⟨cfg, a, f⟩) {k : Nat}
    (hk : InFootprint a.width.toNat a.height.toNat b k) : ∃ d ∈ jobDests cfg a, d.covers k = true := by
  obtain ⟨y, hy, hc⟩ := inFootprint_iff.mp hk
  exact ⟨_, (mem_jobDests hfp).mpr ⟨b, y, hb, hy, rfl⟩, hc⟩

/-! ### Words with no footprint -/

theorem bits_and (w m : Word) (lo len : Nat) : bits (w &&& m) lo len = bits w lo len &&& bits m lo len := by
  rw [bits, bits, bits, BitVec.toNat_and, Nat.and_div_two_pow, Nat.and_mod_two_pow]

/-- Clearing the reserved bits leaves OP and IMM (R141, R149). -/
theorem bits_clearReserved {w : Word} {lo len : Nat} (h : bits 0x1F7FFFFF#32 lo len = 2 ^ len - 1) :
    bits (clearReserved w) lo len = bits w lo len := by
  rw [clearReserved, bits_and, h, Nat.and_two_pow_sub_one_eq_mod]
  exact Nat.mod_mod _ _

/-- The fields of a decoded command are those of its word (R157). -/
theorem cmd_of_decode {w : Word} {i : Instr} {op : JobOp} {c : Cmd} (hd : decode w = .ok i)
    (hi : jobOf i = some (op, c)) : c = decodeFields w := by
  have hof : ∀ n, ofOpcode n (decodeFields w) = some i → i.cmd? = some (decodeFields w) := by
    intro n hn
    unfold ofOpcode at hn
    split at hn <;> cases hn <;> rfl
  have hc := cmd?_of_jobOf hi
  unfold decode at hd
  split at hd
  · cases hd
    cases hc
  · split at hd
    · cases hd
    · split at hd
      · next hn =>
        cases hd
        exact Option.some.inj (hc.symm.trans (hof _ hn))
      · cases hd

/-- What a job with footprints is (R106): a decoded buffer command with pixels. -/
theorem footprintJob_some {cfg : Config} {a : Regs} {op : JobOp} {x : JobCtx} {others : List JobCtx}
    (h : footprintJob cfg a = some (op, x, others)) : ∃ i c, decode (clearReserved a.cmd) = .ok i
      ∧ jobOf i = some (op, c) ∧ x.args = a ∧ x.f.imm = c.imm ∧ addressed x = true := by
  unfold footprintJob at h
  split at h
  · cases h
  · next i hdec =>
    split at h
    · cases h
    · next op' c hjob =>
      split at h
      · cases h
      · next f rest hr =>
        split at h
        · next hp =>
          cases h
          have hf := reads_of_mem_readings (hr ▸ List.mem_cons_self : f ∈ readings c)
          exact ⟨i, c, hdec, hjob, rfl, hf.imm, (Bool.and_eq_true_iff.mp hp).2⟩
        · cases h

/-- A NOP, an IMM job and an empty job have no footprint. -/
theorem footprintJob_none {cfg : Config} {a : Regs}
    (h : bits a.cmd 0 8 = 0 ∨ bits a.cmd 22 1 = 1 ∨ a.width = 0#32 ∨ a.height = 0#32) : footprintJob cfg a = none := by
  cases hfp : footprintJob cfg a with
  | none => rfl
  | some p =>
    exfalso
    obtain ⟨op, x, others⟩ := p
    obtain ⟨i, c, hdec, hjob, rfl, himm, hx⟩ := footprintJob_some hfp
    simp only [addressed, Bool.and_eq_true, Bool.not_eq_true', decide_eq_true_eq] at hx
    obtain ⟨⟨hbuf, hw⟩, hh⟩ := hx
    rcases h with h | h | h | h
    · rw [decode, if_pos ((bits_clearReserved rfl).trans h)] at hdec
      cases hdec
      cases hjob
    · have hc : c.imm = true := by
        rw [cmd_of_decode hdec hjob]
        exact decide_eq_true ((bits_clearReserved rfl).trans h)
      rw [hbuf, hc] at himm
      cases himm
    · exact hw h
    · exact hh h

/-! ### The record of ownership and coherence -/

/-- `t` has the configuration, and the record of owned, dirty and stale bytes, of `s`. -/
structure KeepsRecord (s t : State) : Prop where
  cfg : t.cfg = s.cfg
  owning : t.env.owning = s.env.owning
  dests : t.env.dests = s.env.dests
  pastDests : t.env.pastDests = s.env.pastDests
  dirty : t.env.dirty = s.env.dirty
  stale : t.env.stale = s.env.stale

theorem KeepsHost.record {s t : State} (h : KeepsHost s t) : KeepsRecord s t :=
  ⟨h.cfg, h.owning, h.dests, h.pastDests, h.dirty, h.stale⟩

theorem KeepsRecord.refl (s : State) : KeepsRecord s s := ⟨rfl, rfl, rfl, rfl, rfl, rfl⟩

theorem KeepsRecord.trans {s t u : State} (h : KeepsRecord s t) (h' : KeepsRecord t u) : KeepsRecord s u :=
  ⟨h'.cfg.trans h.cfg, h'.owning.trans h.owning, h'.dests.trans h.dests, h'.pastDests.trans h.pastDests,
    h'.dirty.trans h.dirty, h'.stale.trans h.stale⟩

/-- What one action may do to the record. -/
inductive RecordStep (s : State) : HostAct → State → Prop where
  | keep {act : HostAct} {t : State} (h : KeepsRecord s t) : RecordStep s act t
  | accept {act : HostAct} {u : State} (h : KeepsRecord s u) : RecordStep s act u.accept
  | observe {t : State} (hidle : s.job = none) (hdirty : t.env.dirty = s.env.dirty) (hstale : t.env.stale = s.env.stale) :
      RecordStep s (.regRead 0x00C 4) t
  | store (a : Nat) (v : Byte) : RecordStep s (.memStore a v) (s.hostStore a v)
  | clean (lo len : Nat) : RecordStep s (.cacheClean lo len) (s.cacheClean lo len)
  | invalidate (lo len : Nat) : RecordStep s (.cacheInvalidate lo len) (s.cacheInvalidate lo len)

theorem recordStep_start {s u : State} {act : HostAct} (h : KeepsRecord s u) : RecordStep s act u.start := by
  rcases u.start_cases with ⟨-, -, e⟩ | ⟨-, e⟩ <;> rw [e]
  · exact .accept h
  · exact .keep h

theorem recordStep_resetBlock (s : State) (act : HostAct) : RecordStep s act s.resetBlock := by
  obtain ⟨m, d, e⟩ := s.resetBlock_spec
  rw [e]
  exact .keep ⟨rfl, rfl, rfl, rfl, rfl, rfl⟩

theorem recordStep_writeCtrl (s : State) (v : Word) (act : HostAct) : RecordStep s act (s.writeCtrl v) := by
  have hu : KeepsRecord s (if v.getLsbD 2 then { s with ieDone := v.getLsbD 8, ieErr := v.getLsbD 9 }.lutInvalidate
      else { s with ieDone := v.getLsbD 8, ieErr := v.getLsbD 9 }) := by
    unfold State.lutInvalidate
    repeat' split
    all_goals exact ⟨rfl, rfl, rfl, rfl, rfl, rfl⟩
  unfold State.writeCtrl
  split
  · exact recordStep_resetBlock s act
  · dsimp only
    split
    · exact recordStep_start hu
    · exact .keep hu

theorem recordStep_regWrite (s : State) (off width : Nat) (v : Word) (act : HostAct) :
    RecordStep s act (s.regWrite off width v) := by
  unfold State.regWrite
  split
  · exact .keep (KeepsRecord.refl s)
  · split
    · exact recordStep_writeCtrl s v act
    · split
      · rw [State.acknowledge_spec]
        exact .keep ⟨rfl, rfl, rfl, rfl, rfl, rfl⟩
      · exact .keep ⟨rfl, rfl, rfl, rfl, rfl, rfl⟩

/-- R112: observing ends the ownership when no job runs, and else changes nothing. -/
theorem State.observe_record (s : State) :
    KeepsRecord s s.observe ∨ (s.job = none ∧ s.observe.env.dirty = s.env.dirty ∧ s.observe.env.stale = s.env.stale) := by
  unfold State.observe
  split
  · exact .inl (KeepsRecord.refl s)
  · next hidle => exact .inr ⟨by simpa [State.busy] using hidle, rfl, rfl⟩

theorem keepsRecord_readData (s : State) (v : Word) : KeepsRecord s { s with env := { s.env with readData := v } } :=
  ⟨rfl, rfl, rfl, rfl, rfl, rfl⟩

/-- The one read that changes the record is that of STATUS with BUSY = 0 (R112). -/
theorem recordStep_regRead (s : State) (off width : Nat) : RecordStep s (.regRead off width) (s.regRead off width) := by
  unfold State.regRead
  split
  · exact .keep (keepsRecord_readData s _)
  · next hr =>
    have hu := keepsRecord_readData s (s.readReg off)
    have hjob : ({ s with env := { s.env with readData := s.readReg off } } : State).job = s.job := by dsimp only
    revert hu hjob
    generalize ({ s with env := { s.env with readData := s.readReg off } } : State) = u
    intro hu hjob
    dsimp only
    split
    · next hoff =>
      simp only [isRegAccess, Bool.not_eq_true', Bool.not_eq_false, Bool.and_eq_true, decide_eq_true_eq] at hr
      obtain ⟨⟨hwidth, -⟩, -⟩ := hr
      subst hoff hwidth
      rcases u.observe_record with hkeep | ⟨hidle, hdirty, hstale⟩
      · exact .keep (hu.trans hkeep)
      · exact .observe (hjob.symm.trans hidle) (hdirty.trans hu.dirty) (hstale.trans hu.stale)
    · exact .keep hu

/-- What an action of the host or the platform does to the record. -/
theorem recordStep_hostStep {act : HostAct} {s t : State} (h : hostStep act s = .next t) : RecordStep s act t := by
  cases act with
  | regWrite off width v => cases h; exact recordStep_regWrite s off width v _
  | regRead off width => cases h; exact recordStep_regRead s off width
  | memStore a v => cases inSpace_next h; exact .store a v
  | memLoad a =>
    cases inSpace_next h
    unfold State.hostLoad
    split <;> exact .keep ⟨rfl, rfl, rfl, rfl, rfl, rfl⟩
  | cacheClean lo len => cases h; exact .clean lo len
  | cacheInvalidate lo len => cases h; exact .invalidate lo len
  | powerOnReset => cases h; exact recordStep_resetBlock s _

/-- No command changes the record. -/
theorem exec_keepsRecord {i : Instr} {s t : State} (h : exec i s = .next t) : KeepsRecord s t := by
  cases hi : jobOf i with
  | none =>
    rw [jobOf_none hi] at h
    exact (execNop_keeps h).1.record
  | some p =>
    rw [exec_eq_runJob (op := p.1) (c := p.2) hi] at h
    exact (runJob_keeps h).1.record

/-- What a step does to the record: nothing, but for the host's action when it comes. -/
theorem step_record {s t : State} (h : step s = .next t) :
    KeepsRecord s t ∨ ∃ act u, s.hostTurn = some (act, u) ∧ u.job = s.job ∧ KeepsRecord s u ∧ RecordStep u act t := by
  unfold step at h
  split at h
  · next act u hturn =>
    obtain ⟨i, rest, -, -, rfl⟩ := State.hostTurn_some hturn
    exact .inr ⟨act, _, hturn, rfl, ⟨rfl, rfl, rfl, rfl, rfl, rfl⟩, recordStep_hostStep h⟩
  · refine .inl ?_
    split at h
    · cases h
      exact KeepsRecord.refl s
    · split at h
      · exact exec_keepsRecord h
      · cases h
        obtain ⟨hcfg, howning, hdests, hpast, hdirty, hstale⟩ := s.settled_keepsHost.record
        exact ⟨hcfg, howning, hdests, hpast, hdirty, hstale⟩

end Sys2Proof.Machine
end

section
/-! PROOFS. Ownership from START to the read of STATUS (R112, R502, R533; O57), and the coherence operations (R118,
R573; O59). -/

namespace Sys2Proof.Machine

/-! ### Ownership (R112) -/

/-- R112: an accepted job owns every destination footprint that the layouts and types fix, and no other byte. -/
theorem start_dests {s : State} {i : Instr} {op : JobOp} {c : Cmd} (hj : s.job = none) (he : s.err = none)
    (hi : jobOf i = some (op, c)) (hfp : Footprinted s.cfg s.regs op c) :
    let w := s.regs.width.toNat
    let h := s.regs.height.toNat
    s.start.env.owning = true
      ∧ (∀ b a, (∀ f, Reads c f → b ∈ op.dests ⟨s.cfg, s.regs, f⟩) → InFootprint w h b a →
        ∃ d ∈ s.start.env.dests, d.covers a = true)
      ∧ (∀ d ∈ s.start.env.dests, ∃ b y,
          (∀ f, Reads c f → b ∈ op.dests ⟨s.cfg, s.regs, f⟩) ∧ y < h ∧ d = rowRange w b y)
      ∧ ∀ f, resolve c = some f → op.legal ⟨s.cfg, s.regs, f⟩ = true → op.alpha ⟨s.cfg, s.regs, f⟩ = true →
        ∀ q y e a, q < w → y < h → e ∈ op.dstElems ⟨s.cfg, s.regs, f⟩ → (e.access q y).covers a = true →
          ∃ d ∈ s.start.env.dests, d.covers a = true := by
  intro w h
  rw [State.start_eq_accept hj he, State.accept_dests]
  refine ⟨rfl, fun b a hb ha => exists_jobDest_covers hfp ((forall_reads_dests hi).mp hb) ha, fun d hd => ?_,
    fun f hf hl ha q y e k hq hy hmem hk => ?_⟩
  · obtain ⟨b, y, hb, hy, hrow⟩ := (mem_jobDests hfp).mp hd
    exact ⟨b, y, (forall_reads_dests hi).mpr hb, hy, hrow⟩
  · have hb : ∀ g ∈ readings c, e.buf ∈ op.dests ⟨s.cfg, s.regs, g⟩ := by
      rw [readings_of_resolve hf, List.forall_mem_singleton]
      exact (placed_of_jobOf hi).dstBuf _ e hmem
    exact exists_jobDest_covers hfp hb
      (e.access_inFootprint ((traced_of_jobOf hi).dstInPixel _ hl ha e hmem) hq hy hk)

/-- R112: a NOP, an IMM job and an empty job own nothing, and every START keeps what earlier jobs own. -/
theorem start_keeps_owned {s : State} (hj : s.job = none) (he : s.err = none) :
    ((bits s.regs.cmd 0 8 = 0 ∨ bits s.regs.cmd 22 1 = 1 ∨ s.regs.width = 0#32 ∨ s.regs.height = 0#32) →
      s.start.env.dests = [] ∧ s.start.env.plan = [])
    ∧ ∀ d, d ∈ s.start.env.pastDests ↔ s.env.owning = true ∧ (d ∈ s.env.dests ∨ d ∈ s.env.pastDests) := by
  rw [State.start_eq_accept hj he, State.accept_dests, State.accept_plan, State.accept_pastDests]
  refine ⟨fun h => ?_, fun d => ?_⟩
  · simp only [State.newPlan, jobDests, jobPlan, footprintJob_none h, List.map_nil, and_self]
  · cases s.env.owning
    · simp
    · simp [Env.owned]

/-- `t` owns what `s` owns. -/
def StillOwns (s t : State) : Prop := t.env.owning = true ∧ ∀ d ∈ s.env.owned, d ∈ t.env.owned

theorem KeepsRecord.owned {s t : State} (h : KeepsRecord s t) : t.env.owned = s.env.owned := by
  rw [Env.owned, Env.owned, h.dests, h.pastDests]

theorem KeepsRecord.stillOwns {s t : State} (h : KeepsRecord s t) (ho : s.env.owning = true) : StillOwns s t :=
  ⟨h.owning.trans ho, fun d hd => by rw [h.owned]; exact hd⟩

/-- An accepted START keeps what is owned as the past jobs' (log entry 19). -/
theorem accept_stillOwns {s : State} (ho : s.env.owning = true) : StillOwns s s.accept := by
  refine ⟨rfl, fun d hd => List.mem_append_right _ ?_⟩
  rw [State.accept_pastDests, ho]
  exact hd

theorem hostStore_keepsOwned (s : State) (a : Nat) (v : Byte) :
    (s.hostStore a v).env.owning = s.env.owning ∧ (s.hostStore a v).env.owned = s.env.owned := by
  obtain ⟨m, d, e⟩ := s.hostStore_eq a v
  rw [e]
  exact ⟨rfl, rfl⟩

/-- No action but the read of STATUS with BUSY = 0 ends the ownership. -/
theorem RecordStep.stillOwns {s t : State} {act : HostAct} (h : RecordStep s act t) (ho : s.env.owning = true) :
    StillOwns s t ∨ s.job = none ∧ act = .regRead 0x00C 4 := by
  cases h with
  | keep h => exact .inl (h.stillOwns ho)
  | @accept _ u h =>
    obtain ⟨hown, hsub⟩ := accept_stillOwns (h.owning.trans ho)
    exact .inl ⟨hown, fun d hd => hsub d (by rw [h.owned]; exact hd)⟩
  | observe hidle => exact .inr ⟨hidle, rfl⟩
  | store a v =>
    obtain ⟨hown, howned⟩ := hostStore_keepsOwned s a v
    exact .inl ⟨hown.trans ho, fun d hd => by rw [howned]; exact hd⟩
  | clean => exact .inl ⟨ho, fun _ hd => hd⟩
  | invalidate => exact .inl ⟨ho, fun _ hd => hd⟩

theorem step_stillOwns {s t : State} (h : step s = .next t) (ho : s.env.owning = true) :
    StillOwns s t ∨ s.job = none ∧ ∃ u, s.hostTurn = some (.regRead 0x00C 4, u) := by
  rcases step_record h with h | ⟨act, u, hturn, hjob, hrec, hact⟩
  · exact .inl (h.stillOwns ho)
  · rcases hact.stillOwns (hrec.owning.trans ho) with ⟨hown, hsub⟩ | ⟨hidle, rfl⟩
    · exact .inl ⟨hown, fun d hd => hsub d (by rw [hrec.owned]; exact hd)⟩
    · exact .inr ⟨hjob.symm.trans hidle, u, hturn⟩

/-- R112 (c), R118: a load of an owned or stale byte returns a free value. -/
theorem hostLoad_free {s : State} {a : Nat} (h : (∃ d ∈ s.env.owned, d.covers a = true) ∨ a ∈ s.env.stale) :
    (s.hostLoad a).env.readData = (Config.freeByte s.env.draws).setWidth 32 := by
  have hc : (s.env.owned.any (fun c => c.covers a) || decide (a ∈ s.env.stale)) = true := by
    rw [Bool.or_eq_true, List.any_eq_true, decide_eq_true_eq]
    exact h
  rw [State.hostLoad, if_pos hc]

/-- R112: the read of STATUS with BUSY = 0 ends the ownership. -/
theorem readStatus_ends_ownership {s : State} (hj : s.job = none) :
    (s.regRead 0x00C 4).env.owning = false ∧ (s.regRead 0x00C 4).env.owned = [] := by
  have hread : s.regRead 0x00C 4 = State.observe { s with env := { s.env with readData := s.readReg 0x00C } } := rfl
  have hidle : State.busy { s with env := { s.env with readData := s.readReg 0x00C } } = false := by
    rw [State.busy, hj]
    rfl
  rw [hread, State.observe, hidle]
  exact ⟨rfl, rfl⟩

/-- Settles O57, clause by clause: what START owns, what it keeps, every step, a load, and the read of STATUS. -/
theorem acceptedJobOwnsDestination : Obligations.AcceptedJobOwnsDestination := by
  refine ⟨fun s i op c hj he hdec hi hpres himm hw hh => ?_, fun s hj he => start_keeps_owned hj he,
    fun s t h ho => step_stillOwns h ho, fun s a m ⟨d, hd, hc⟩ => ?_, fun s hj => readStatus_ends_ownership hj⟩
  · exact start_dests hj he hi ⟨⟨i, hdec, hi, hpres⟩, himm, hw, hh⟩
  · exact hostLoad_free (s := { s with mem := m }) (.inl ⟨d, List.mem_append.mpr hd, hc⟩)

/-! ### Coherence (R118) -/

/-- R118: with coherent accesses, no line is dirty for a START. -/
theorem accept_doomed_coherent {s : State} (hc : s.cfg.ioCoherent = true) : s.accept.env.doomed = [] := by
  rw [State.accept_doomed, List.eq_nil_iff_forall_not_mem]
  rintro b hb
  obtain ⟨hio, -⟩ := mem_startCost.mp hb
  rw [hc] at hio
  cases hio

theorem mem_accept_stale {s : State} {b : Nat} : b ∈ s.accept.env.stale ↔
    b ∈ s.env.stale ∨ s.cfg.ioCoherent = false ∧ ∃ d ∈ jobDests s.cfg s.regs, d.covers b = true := by
  have h : s.accept.env.stale = if s.cfg.ioCoherent then s.env.stale
      else (jobDests s.cfg s.regs).flatMap Access.bytes ++ s.env.stale := rfl
  rw [h]
  cases s.cfg.ioCoherent
  · simp only [Bool.false_eq_true, if_false, List.mem_append, List.mem_flatMap, Access.mem_bytes, true_and]
    exact or_comm
  · simp

theorem hostStore_dirty (s : State) (a : Nat) (v : Byte) : (s.hostStore a v).env.dirty
    = if s.cfg.ioCoherent then s.env.dirty else a :: s.env.dirty := by
  obtain ⟨m, d, e⟩ := s.hostStore_eq a v
  rw [e]

theorem hostStore_stale (s : State) (a : Nat) (v : Byte) : (s.hostStore a v).env.stale = s.env.stale := by
  obtain ⟨m, d, e⟩ := s.hostStore_eq a v
  rw [e]

/-- R118: with coherent accesses, no action adds a dirty or a stale byte. -/
theorem RecordStep.coherent {s t : State} {act : HostAct} (h : RecordStep s act t) (hc : s.cfg.ioCoherent = true) :
    (∀ b ∈ t.env.dirty, b ∈ s.env.dirty) ∧ ∀ b ∈ t.env.stale, b ∈ s.env.stale := by
  cases h with
  | keep h => exact ⟨fun b hb => h.dirty ▸ hb, fun b hb => h.stale ▸ hb⟩
  | @accept _ u h =>
    refine ⟨fun b hb => h.dirty ▸ hb, fun b hb => ?_⟩
    rw [mem_accept_stale, h.cfg, hc, h.stale] at hb
    exact hb.resolve_right fun hf => Bool.false_ne_true hf.1.symm
  | observe _ hdirty hstale => exact ⟨fun b hb => hdirty ▸ hb, fun b hb => hstale ▸ hb⟩
  | store a v =>
    rw [hostStore_dirty, hostStore_stale, hc]
    exact ⟨fun _ hb => hb, fun _ hb => hb⟩
  | clean => exact ⟨fun _ hb => List.mem_of_mem_filter hb, fun _ hb => hb⟩
  | invalidate => exact ⟨fun _ hb => hb, fun _ hb => List.mem_of_mem_filter hb⟩

theorem step_coherent {s t : State} (h : step s = .next t) (hc : s.cfg.ioCoherent = true) :
    (∀ b ∈ t.env.dirty, b ∈ s.env.dirty) ∧ ∀ b ∈ t.env.stale, b ∈ s.env.stale := by
  rcases step_record h with h | ⟨act, u, -, -, hrec, hact⟩
  · exact ⟨fun b hb => h.dirty ▸ hb, fun b hb => h.stale ▸ hb⟩
  · rw [← hrec.dirty, ← hrec.stale]
    exact hact.coherent (hrec.cfg ▸ hc)

/-- The cache line of `a` meets a range where the range has a byte of the line (R118). -/
theorem lineTouches_iff {cfg : Config} (h : 0 < cfg.cacheLine) {lo len a : Nat} : lineTouches cfg lo len a = true ↔
    ∃ d, lo ≤ d ∧ d < lo + len ∧ d / cfg.cacheLine = a / cfg.cacheLine := by
  have hline : ∀ d, (lineOf cfg a).covers d = true ↔ d / cfg.cacheLine = a / cfg.cacheLine := fun d => by
    rw [Access.covers_true, Nat.div_eq_iff h]
    simp only [lineOf]
    have := Nat.div_mul_le_self a cfg.cacheLine
    omega
  rw [lineTouches, Access.meets_true]
  simp only [hline, Access.covers_true]
  exact ⟨fun ⟨d, hd, hlo, hhi⟩ => ⟨d, hlo, hhi, hd⟩, fun ⟨d, hlo, hhi, hd⟩ => ⟨d, hd, hlo, hhi⟩⟩

theorem mem_cacheClean {s : State} {lo len b : Nat} : b ∈ (s.cacheClean lo len).env.dirty ↔
    b ∈ s.env.dirty ∧ ¬lineTouches s.cfg lo len b = true := by
  simp only [State.cacheClean, List.mem_filter, Bool.not_eq_true', Bool.not_eq_true]

theorem mem_cacheInvalidate {s : State} {lo len b : Nat} : b ∈ (s.cacheInvalidate lo len).env.stale ↔
    b ∈ s.env.stale ∧ (¬lineTouches s.cfg lo len b = true ∨ ∃ d ∈ s.env.owned, d.covers b = true) := by
  simp only [State.cacheInvalidate, List.mem_filter, Bool.or_eq_true, Bool.not_eq_true', Bool.not_eq_true,
    List.any_eq_true]

/-- R118: only an invalidate drops a stale byte, and none that a job owns. -/
theorem RecordStep.stale {s t : State} {act : HostAct} (h : RecordStep s act t) {a : Nat} (ha : a ∈ s.env.stale) :
    a ∈ t.env.stale ∨ (∀ d ∈ s.env.owned, d.covers a = false) ∧ ∃ lo len, act = .cacheInvalidate lo len := by
  cases h with
  | keep h => exact .inl (h.stale.symm ▸ ha)
  | accept h => exact .inl (mem_accept_stale.mpr (.inl (h.stale.symm ▸ ha)))
  | observe _ _ hstale => exact .inl (hstale.symm ▸ ha)
  | store a v => exact .inl ((hostStore_stale s a v).symm ▸ ha)
  | clean => exact .inl ha
  | invalidate lo len =>
    by_cases hown : ∃ d ∈ s.env.owned, d.covers a = true
    · exact .inl (mem_cacheInvalidate.mpr ⟨ha, .inr hown⟩)
    · refine .inr ⟨fun d hd => ?_, lo, len, rfl⟩
      rw [← Bool.not_eq_true]
      exact fun hc => hown ⟨d, hd, hc⟩

theorem step_stale {s t : State} (h : step s = .next t) {a : Nat} (ha : a ∈ s.env.stale) :
    a ∈ t.env.stale
    ∨ (∀ d ∈ s.env.owned, d.covers a = false) ∧ ∃ lo len u, s.hostTurn = some (.cacheInvalidate lo len, u) := by
  rcases step_record h with h | ⟨act, u, hturn, -, hrec, hact⟩
  · exact .inl (h.stale.symm ▸ ha)
  · refine (hact.stale (hrec.stale.symm ▸ ha)).imp_right fun ⟨hown, lo, len, hinv⟩ => ?_
    rw [hrec.owned] at hown
    exact ⟨hown, lo, len, u, hinv ▸ hturn⟩

/-- Settles O59, clause by clause: coherent accesses, a store, START's marks, clean and invalidate, START's stale bytes,
a load, and every step. -/
theorem coherenceStepsOmitted : Obligations.CoherenceStepsOmitted := by
  refine ⟨fun s t hc h => ?_, fun s a v hc => ⟨fun b => ?_, fun ho hj b d hb hl hd hcov => ?_⟩, fun s hj he b => ?_,
    fun s lo len b hpos => ⟨?_, ?_⟩, fun s i op c hc hj he hdec hi hpres himm hw hh b a hb ha => ?_,
    fun s a m ha => hostLoad_free (s := { s with mem := m }) (.inr ha), fun s t a h ha => step_stale h ha⟩
  · obtain ⟨hdirty, hstale⟩ := step_coherent h hc
    exact ⟨hdirty, hstale, accept_doomed_coherent hc⟩
  · rw [hostStore_dirty, hc]
    exact List.mem_cons
  · exact (raced_hostStore ho hj a v b).mpr (.inr ⟨hb, .inr ⟨.inr ⟨hc, hl⟩, d, hd, hcov⟩⟩)
  · rw [State.start_eq_accept hj he]
    exact mem_startCost
  · rw [mem_cacheClean, lineTouches_iff hpos]
  · rw [mem_cacheInvalidate, lineTouches_iff hpos]
  · rw [State.start_eq_accept hj he, mem_accept_stale]
    exact .inr ⟨hc, exists_jobDest_covers ⟨⟨i, hdec, hi, hpres⟩, himm, hw, hh⟩ ((forall_reads_dests hi).mp hb) ha⟩

end Sys2Proof.Machine
end


section
/-! PROOFS. Dependences (R112 (a), R329; O60): each result element of a command, by template, is a function of the source
bytes it is recorded to depend on. -/

namespace Sys2Proof.Machine

/-! ### Bytes of a word -/

/-- Numbers with the same low bytes. -/
theorem mod_eq_of_bytes {a b : Nat} : ∀ {n : Nat}, (∀ k, k < n → a / 2 ^ (8 * k) % 2 ^ 8 = b / 2 ^ (8 * k) % 2 ^ 8) →
    a % 2 ^ (8 * n) = b % 2 ^ (8 * n)
  | 0, _ => by rw [Nat.mul_zero, Nat.pow_zero, Nat.mod_one, Nat.mod_one]
  | n + 1, h => by
    rw [Nat.mul_add, Nat.mul_one, Nat.pow_add, Nat.mod_mul, Nat.mod_mul, h n (Nat.lt_succ_self n),
      mod_eq_of_bytes fun k hk => h k (Nat.lt_succ_of_lt hk)]

/-- Elements of the same size with the same bytes are equal. -/
theorem word_eq_of_bytes {n : Nat} {v w : Word} (hv : lowBytes n v = v) (hw : lowBytes n w = w)
    (h : ∀ b, b < n → bits v (8 * b) 8 = bits w (8 * b) 8) : v = w := by
  rw [← hv, ← hw, lowBytes, lowBytes, mod_eq_of_bytes h]

/-- A byte holds eight bits. -/
theorem getLsbD_of_byte {v w : Word} {b i : Nat} (h : bits v (8 * b) 8 = bits w (8 * b) 8) (hi : i < 8) :
    v.getLsbD (8 * b + i) = w.getLsbD (8 * b + i) := by
  have ht := congrArg (fun n => n.testBit i) h
  simp only [bits, Nat.testBit_mod_two_pow, hi, decide_true, Bool.true_and, Nat.testBit_div_two_pow] at ht
  rw [BitVec.getLsbD, BitVec.getLsbD, Nat.add_comm]
  exact ht

/-- A bit beyond an element's size is 0. -/
theorem getLsbD_of_lowBytes {n : Nat} {v : Word} (h : lowBytes n v = v) {k : Nat} (hk : 8 * n ≤ k) :
    v.getLsbD k = false := by
  rw [← h, lowBytes, BitVec.getLsbD_ofNat, Nat.testBit_mod_two_pow, decide_eq_false (Nat.not_lt.mpr hk)]
  simp

/-- R406, R409: a field of a packed word is decided by the bytes that hold part of it. -/
theorem field_eq_of_bytes {n : Nat} {v w : Word} {lo len : Nat} (hlen : 0 < len) (hn : lo + len ≤ 8 * n)
    (h : ∀ b, b < n → inField lo (lo + len - 1) b = true → bits v (8 * b) 8 = bits w (8 * b) 8) :
    field v lo len = field w lo len := by
  refine BitVec.eq_of_getLsbD_eq fun i _ => ?_
  simp only [field, BitVec.getLsbD_and, BitVec.getLsbD_ushiftRight, BitVec.getLsbD_ofNat, Nat.testBit_two_pow_sub_one]
  by_cases hi : i < len
  · have hbyte := h ((lo + i) / 8) (by omega) (by
      rw [inField, Bool.and_eq_true, decide_eq_true_eq, decide_eq_true_eq]
      omega)
    have hbit := getLsbD_of_byte hbyte (Nat.mod_lt (lo + i) (by decide))
    rw [Nat.div_add_mod] at hbit
    rw [hbit]
  · rw [decide_eq_false hi, Bool.and_false, Bool.and_false, Bool.and_false]

/-! ### Commands whose dependences are sound -/

/-- Two readings of the source elements agree on what result element `k` is recorded to depend on. -/
def Agree (op : JobOp) (x : JobCtx) (k : Nat) (v w : Nat → Word) : Prop := ∀ slot d, (op.srcElems x)[slot]? = some d →
  lowBytes d.buf.unit (v slot) = v slot ∧ lowBytes d.buf.unit (w slot) = w slot
    ∧ ∀ b, b < d.buf.unit → op.dep x k slot b = true → bits (v slot) (8 * b) 8 = bits (w slot) (8 * b) 8

/-- R112 (a), R329: readings that agree give the same element. -/
def JobOp.Sound (op : JobOp) : Prop := ∀ x, x.f.pos < 4 → op.legal x = true → op.alpha x = true → ∀ k v w,
  Agree op x k v w → (op.body x v)[k]? = (op.body x w)[k]?

/-- An element read in full is the same in both readings. -/
theorem Agree.slot_eq {op : JobOp} {x : JobCtx} {k : Nat} {v w : Nat → Word} (h : Agree op x k v w) {slot : Nat}
    (hs : slot < (op.srcElems x).length) (hd : ∀ b, op.dep x k slot b = true) : v slot = w slot := by
  obtain ⟨hv, hw, hb⟩ := h slot _ (List.getElem?_eq_getElem hs)
  exact word_eq_of_bytes hv hw fun b hlt => hb b hlt (hd b)

theorem namedSrcs_length (b : BufArg) (x : JobCtx) : 3 ≤ (namedSrcs b x).length := by
  simp [namedSrcs]

/-- R328: under PASS the alpha element has a slot of its own. -/
theorem namedSrcs_length_pass {b : BufArg} {x : JobCtx} (h : x.f.am = .pass) : 3 < (namedSrcs b x).length := by
  simp [namedSrcs, h]

/-- The alpha element rests on the source's under PASS alone (R328). -/
theorem alphaOut_getElem? {x : JobCtx} {a a' : Word} {k : Nat} (h : x.f.am = .pass → k = 0 → a = a') :
    (alphaOut x a)[k]? = (alphaOut x a')[k]? := by
  unfold alphaOut
  cases ham : x.f.am with
  | none => rfl
  | const => rfl
  | pass =>
    cases k with
    | zero => rw [h ham rfl]
    | succ k => rfl

/-- A list of three, followed by another, element by element. -/
theorem getElem?_three_append {α : Type} {a b c a' b' c' : α} {l l' : List α} {k : Nat} (h0 : k = 0 → a = a')
    (h1 : k = 1 → b = b') (h2 : k = 2 → c = c') (h3 : ∀ i, k = i + 3 → l[i]? = l'[i]?) :
    ([a, b, c] ++ l)[k]? = ([a', b', c'] ++ l')[k]? := by
  match k with
  | 0 => exact congrArg some (h0 rfl)
  | 1 => exact congrArg some (h1 rfl)
  | 2 => exact congrArg some (h2 rfl)
  | i + 3 => exact h3 i rfl

/-- A single element. -/
theorem getElem?_singleton_congr {α : Type} {a a' : α} {k : Nat} (h : k = 0 → a = a') : [a][k]? = [a'][k]? := by
  cases k with
  | zero => rw [h rfl]
  | succ k => rfl

/-! ### Kernel chains, coordinate by coordinate -/

/-- Coordinate `k` of a triple. -/
def coord (t : Tri) (k : Nat) : F32 :=
  match k with
  | 0 => t.c0
  | 1 => t.c1
  | _ => t.c2

/-- Coordinate `k` of the result is decided by the coordinates that `g k` names. -/
def DependsBy (g : Nat → Nat → Bool) (kern : Tri → Tri) : Prop := ∀ k, k < 3 → ∀ s t : Tri,
  (∀ slot, slot < 3 → g k slot = true → coord s slot = coord t slot) → coord (kern s) k = coord (kern t) k

theorem dependsBy_mixed (kern : Tri → Tri) : DependsBy mixed kern := by
  rintro k - ⟨s0, s1, s2⟩ ⟨t0, t1, t2⟩ h
  obtain rfl : s0 = t0 := h 0 (by decide) rfl
  obtain rfl : s1 = t1 := h 1 (by decide) rfl
  obtain rfl : s2 = t2 := h 2 (by decide) rfl
  rfl

theorem dependsBy_separate (fn : F32 → F32) : DependsBy separate (mapTri fn) := by
  intro k hk s t h
  have hk' := h k hk (decide_eq_true rfl)
  interval_cases k <;> exact congrArg fn hk'

/-- R250: the lightness is passed on. -/
theorem toPolar_c0 (e : ElemChoice) (v : Tri) : (toPolar e v).c0 = v.c0 := by
  unfold toPolar
  dsimp only
  split <;> rfl

/-- R250: chroma and hue do not read the lightness. -/
theorem toPolar_axes (e : ElemChoice) (a a' b c : F32) :
    (toPolar e ⟨a, b, c⟩).c1 = (toPolar e ⟨a', b, c⟩).c1 ∧ (toPolar e ⟨a, b, c⟩).c2 = (toPolar e ⟨a', b, c⟩).c2 := by
  unfold toPolar
  dsimp only
  split <;> exact ⟨rfl, rfl⟩

theorem dependsBy_toPolar (e : ElemChoice) : DependsBy polarDep (toPolar e) := by
  rintro k hk ⟨s0, s1, s2⟩ ⟨t0, t1, t2⟩ h
  have axes : k ≠ 0 → s1 = t1 ∧ s2 = t2 := fun hk0 =>
    ⟨h 1 (by decide) (by simp [polarDep, hk0]), h 2 (by decide) (by simp [polarDep, hk0])⟩
  interval_cases k
  · exact ((toPolar_c0 e _).trans (h 0 (by decide) rfl)).trans (toPolar_c0 e _).symm
  · obtain ⟨rfl, rfl⟩ := axes (by decide)
    exact (toPolar_axes e s0 t0 s1 s2).1
  · obtain ⟨rfl, rfl⟩ := axes (by decide)
    exact (toPolar_axes e s0 t0 s1 s2).2

theorem dependsBy_fromPolar (e : ElemChoice) : DependsBy polarDep (fromPolar e) := by
  rintro k hk ⟨s0, s1, s2⟩ ⟨t0, t1, t2⟩ h
  have axes : k ≠ 0 → s1 = t1 ∧ s2 = t2 := fun hk0 =>
    ⟨h 1 (by decide) (by simp [polarDep, hk0]), h 2 (by decide) (by simp [polarDep, hk0])⟩
  interval_cases k
  · exact h 0 (by decide) rfl
  · obtain ⟨rfl, rfl⟩ := axes (by decide)
    simp only [coord, fromPolar]
  · obtain ⟨rfl, rfl⟩ := axes (by decide)
    simp only [coord, fromPolar]

theorem dependsBy_xyzToLab (e : ElemChoice) (a : Regs) : DependsBy labDep (xyzToLab e a) := by
  rintro k hk ⟨s0, s1, s2⟩ ⟨t0, t1, t2⟩ h
  obtain rfl : s1 = t1 := h 1 (by decide) (by simp [labDep])
  interval_cases k
  · simp only [coord, xyzToLab]
  · obtain rfl : s0 = t0 := h 0 (by decide) rfl
    simp only [coord, xyzToLab]
  · obtain rfl : s2 = t2 := h 2 (by decide) rfl
    simp only [coord, xyzToLab]

theorem dependsBy_labToXyz (a : Regs) : DependsBy labInvDep (labToXyz a) := by
  rintro k hk ⟨s0, s1, s2⟩ ⟨t0, t1, t2⟩ h
  obtain rfl : s0 = t0 := h 0 (by decide) (by simp [labInvDep])
  interval_cases k
  · obtain rfl : s1 = t1 := h 1 (by decide) rfl
    simp only [coord, labToXyz]
  · simp only [coord, labToXyz]
  · obtain rfl : s2 = t2 := h 2 (by decide) rfl
    simp only [coord, labToXyz]

/-- R248: L does not read X and Z, the black guard included. -/
theorem xyzToLuv_c0 (e : ElemChoice) (a : Regs) (p p' q r r' : F32) :
    (xyzToLuv e a ⟨p, q, r⟩).c0 = (xyzToLuv e a ⟨p', q, r'⟩).c0 := by
  have key : ∀ {b : Bool} {l u v u' v' : F32}, (if b then zeroTri else ⟨l, u, v⟩ : Tri).c0
      = (if b then zeroTri else ⟨l, u', v'⟩ : Tri).c0 := fun {b} _ _ _ _ _ => by cases b <;> rfl
  simp only [xyzToLuv]
  exact key

theorem dependsBy_xyzToLuv (e : ElemChoice) (a : Regs) : DependsBy luvDep (xyzToLuv e a) := by
  rintro k hk ⟨s0, s1, s2⟩ ⟨t0, t1, t2⟩ h
  obtain rfl : s1 = t1 := h 1 (by decide) (by simp [luvDep])
  by_cases hk0 : k = 0
  · subst hk0
    exact xyzToLuv_c0 e a s0 t0 s1 s2 t2
  · obtain rfl : s0 = t0 := h 0 (by decide) (by simp [luvDep, hk0])
    obtain rfl : s2 = t2 := h 2 (by decide) (by simp [luvDep, hk0])
    rfl

/-- R249: Y does not read u and v, the guards included. -/
theorem luvToXyz_c1 (a : Regs) (l u v u' v' : F32) : (luvToXyz a ⟨l, u, v⟩).c1 = (luvToXyz a ⟨l, u', v'⟩).c1 := by
  have key : ∀ {b d d' : Bool} {p q r p' r' : F32},
      (if b then zeroTri else if d then ⟨posZero, q, posZero⟩ else ⟨p, q, r⟩ : Tri).c1
        = (if b then zeroTri else if d' then ⟨posZero, q, posZero⟩ else ⟨p', q, r'⟩ : Tri).c1 :=
    fun {b d d'} _ _ _ _ _ => by cases b <;> cases d <;> cases d' <;> rfl
  simp only [luvToXyz]
  exact key

theorem dependsBy_luvToXyz (a : Regs) : DependsBy luvInvDep (luvToXyz a) := by
  rintro k hk ⟨s0, s1, s2⟩ ⟨t0, t1, t2⟩ h
  obtain rfl : s0 = t0 := h 0 (by decide) (by simp [luvInvDep])
  by_cases hk1 : k = 1
  · subst hk1
    exact luvToXyz_c1 a s0 s1 s2 t1 t2
  · obtain rfl : s1 = t1 := h 1 (by decide) (by simp [luvInvDep, hk1])
    obtain rfl : s2 = t2 := h 2 (by decide) (by simp [luvInvDep, hk1])
    rfl

/-! ### The colour templates -/

/-- The elements a chain of kernels takes and gives: each sample taken in, the chain, each coordinate given out, and the
alpha element beside them. -/
def chainOut (x : JobCtx) (inp out : Word → Word) (kern : Tri → Tri) (v : Nat → Word) : List Word :=
  let t := kern (mapTri inp ⟨v 0, v 1, v 2⟩)
  [out t.c0, out t.c1, out t.c2] ++ alphaOut x (conv x.f.st x.f.dt (v 3))

/-- A command of named channels whose body is a chain of kernels. -/
theorem sound_chain {op : JobOp} {g : Nat → Nat → Bool} {inp out : JobCtx → Word → Word} {kern : JobCtx → Tri → Tri}
    (hsrc : op.srcElems = polSrcs) (hbody : ∀ x v, op.body x v = chainOut x (inp x) (out x) (kern x) v)
    (hdep : ∀ x k slot b, k < 3 → slot < 3 → g k slot = true → op.dep x k slot b = true)
    (hdepAlpha : ∀ x b, op.dep x 3 3 b = true) (hkern : ∀ x, DependsBy g (kern x)) : op.Sound := by
  intro x _ _ _ k v w h
  have hcoord : ∀ i, k = i → i < 3 → coord (kern x (mapTri (inp x) ⟨v 0, v 1, v 2⟩)) i
      = coord (kern x (mapTri (inp x) ⟨w 0, w 1, w 2⟩)) i := by
    rintro i rfl hk
    refine hkern x k hk _ _ fun slot hslot hg => ?_
    have hlen : slot < (op.srcElems x).length := by
      rw [hsrc]
      exact lt_of_lt_of_le hslot (namedSrcs_length _ x)
    have hvw := h.slot_eq hlen fun b => hdep x k slot b hk hslot hg
    interval_cases slot <;> exact congrArg (inp x) hvw
  rw [hbody, hbody]
  refine getElem?_three_append (fun hk => ?_) (fun hk => ?_) (fun hk => ?_) fun i hk => alphaOut_getElem? fun hp hi => ?_
  · exact congrArg (out x) (hcoord 0 hk (by decide))
  · exact congrArg (out x) (hcoord 1 hk (by decide))
  · exact congrArg (out x) (hcoord 2 hk (by decide))
  · subst hi
    have hlen : 3 < (op.srcElems x).length := by
      rw [hsrc]
      exact namedSrcs_length_pass hp
    rw [h.slot_eq hlen fun b => by rw [hk]; exact hdepAlpha x b]

theorem chainDep_true {g : Nat → Nat → Bool} {x : JobCtx} {k slot b : Nat} (hk : k < 3) (hs : slot < 3)
    (hg : g k slot = true) : chainDep g x k slot b = true := by
  rw [chainDep, if_pos hk, decide_eq_true hs, hg]
  rfl

/-- R208: a command that takes each channel through one curve, by name, under whatever rules of its own it is legal. -/
theorem sound_rgbSide {op : JobOp} {g : JobCtx → Word → Word} (hsrc : op.srcElems = polSrcs) (hdep : op.dep = ownSlot)
    (hbody : op.body = (rgbSideOp g).body) : op.Sound :=
  sound_chain (g := separate) (inp := g) (out := fun _ => id) (kern := fun _ => mapTri id) hsrc
    (fun _ _ => by rw [hbody]; rfl) (fun _ _ _ _ _ _ hg => by rw [hdep]; exact hg) (fun _ _ => by rw [hdep]; rfl)
    (fun _ => dependsBy_separate id)

theorem sound_forward {params : List Param} {kern : JobCtx → Tri → Tri} {g : Nat → Nat → Bool}
    (h : ∀ x, DependsBy g (kern x)) : (forwardOp params kern g).Sound :=
  sound_chain (inp := fun x w => lin x.cfg.elem x.args.gamma x.f.tf (norm x.f.st w)) (out := fun _ => quant .f32)
    (kern := kern) rfl (fun _ _ => rfl) (fun x _ _ b hk hs hg => chainDep_true (x := x) (b := b) hk hs hg) (fun _ _ => rfl) h

theorem sound_inverse {params : List Param} {kern : JobCtx → Tri → Tri} {g : Nat → Nat → Bool}
    (h : ∀ x, DependsBy g (kern x)) : (inverseOp params kern g).Sound :=
  sound_chain (inp := fun _ => norm .f32) (out := fun x l => quant x.f.dt (gam x.cfg.elem x.args.gamma x.f.tf l))
    (kern := kern) rfl (fun _ _ => rfl) (fun x _ _ b hk hs hg => chainDep_true (x := x) (b := b) hk hs hg) (fun _ _ => rfl) h

theorem sound_kernel {params : List Param} {kern : JobCtx → Tri → Tri} {g : Nat → Nat → Bool}
    (h : ∀ x, DependsBy g (kern x)) : (kernelOp params kern g).Sound :=
  sound_chain (inp := fun _ => norm .f32) (out := fun _ => quant .f32) (kern := kern) rfl (fun _ _ => rfl)
    (fun x _ _ b hk hs hg => chainDep_true (x := x) (b := b) hk hs hg) (fun _ _ => rfl) h

/-! ### The layout commands (R402 to R405) -/

/-- A command whose result element `k` is the source element in slot `k`. -/
theorem sound_ownSlot {op : JobOp} {n : JobCtx → Nat} (hlen : ∀ x, (op.srcElems x).length = n x)
    (hdep : op.dep = ownSlot) (hbody : ∀ x v, op.body x v = (List.range (n x)).map v) : op.Sound := by
  intro x _ _ _ k v w h
  rw [hbody, hbody, List.getElem?_map, List.getElem?_map]
  by_cases hk : k < n x
  · have hvw : v k = w k := h.slot_eq (by rw [hlen]; exact hk) fun b => by
      rw [hdep]
      exact decide_eq_true rfl
    rw [List.getElem?_range hk, Option.map_some, Option.map_some, hvw]
  · rw [List.getElem?_eq_none (by rw [List.length_range]; omega)]
    rfl

theorem sound_strip : stripOp.Sound :=
  sound_ownSlot (n := fun x => nch x.f.dl) (fun _ => by simp [stripOp]) rfl fun _ _ => rfl

theorem sound_deinterleave : deinterleaveOp.Sound :=
  sound_ownSlot (n := fun x => nch x.f.sl) (fun _ => by simp [deinterleaveOp, channels]) rfl fun _ _ => rfl

theorem sound_interleave : interleaveOp.Sound :=
  sound_ownSlot (n := fun x => nch x.f.sl) (fun _ => by simp [interleaveOp]) rfl fun _ _ => rfl

theorem sound_expand : expandOp.Sound := by
  intro x hpos hl ha k v w h
  have hslots : (channels (pixS x) x.f.sl).length = 3 := by
    simp only [expandOp, Bool.and_eq_true, decide_eq_true_eq] at hl
    obtain ⟨⟨hwith, -⟩, -⟩ := hl
    rw [channels, List.length_map, List.length_range]
    revert hwith
    cases x.f.sl <;> simp [withAlpha, nch]
  have hd : nch x.f.dl = 4 := by
    simp only [expandOp, Bool.and_eq_true, decide_eq_true_eq] at hl
    obtain ⟨⟨hwith, -⟩, -⟩ := hl
    revert hwith
    cases x.f.sl <;> cases x.f.dl <;> simp [withAlpha, nch]
  have hchan : ∀ slot, slot < 3 → (∀ b, expandDep x k slot b = true) → v slot = w slot := fun slot hs hdep =>
    h.slot_eq (by
      simp only [expandOp, List.length_append, hslots]
      omega) hdep
  simp only [expandOp, List.getElem?_map, hd]
  by_cases hk : k < 4
  · rw [List.getElem?_range hk, Option.map_some, Option.map_some]
    refine congrArg some ?_
    unfold expandChan
    split
    · next hlt => exact hchan k (by omega) fun b => decide_eq_true (by rw [if_pos hlt])
    · next hge =>
      split
      · next heq =>
        split
        · rfl
        · next hnc =>
          refine h.slot_eq ?_ fun b => decide_eq_true (by rw [if_neg hge, if_pos heq])
          have hp : x.f.am = .pass := by
            have hn : x.f.am ≠ .none := of_decide_eq_true ha
            cases hm : x.f.am with
            | none => exact absurd hm hn
            | pass => rfl
            | const => exact absurd hm hnc
          simp [expandOp, hslots, hp]
      · next hne => exact hchan (k - 1) (by omega) fun b => decide_eq_true (by rw [if_neg hge, if_neg hne])
  · rw [List.getElem?_eq_none (by rw [List.length_range]; omega)]
    rfl

/-! ### The packing commands (R406 to R413) -/

theorem sound_pack565 : pack565Op.Sound := by
  intro x _ _ _ k v w h
  have hvw : ∀ slot, slot < 3 → v slot = w slot := fun slot hs =>
    h.slot_eq (lt_of_lt_of_le hs (namedSrcs_length _ x)) fun _ => decide_eq_true hs
  simp only [pack565Op, hvw 0 (by decide), hvw 1 (by decide), hvw 2 (by decide)]

/-- R411: the alpha bits of a packed word come from the high byte of a U16 element. -/
theorem twoBits_eq {t : ElemType} (ht : t ≠ .f32) {v w : Word} (hv : lowBytes (elemSize t) v = v)
    (hw : lowBytes (elemSize t) w = w)
    (h : ∀ b, b < elemSize t → t = .u8 ∨ 1 ≤ b → bits v (8 * b) 8 = bits w (8 * b) 8) : twoBits t v = twoBits t w := by
  cases t with
  | u8 => rw [word_eq_of_bytes hv hw fun b hb => h b hb (.inl rfl)]
  | u16 =>
    refine BitVec.eq_of_getLsbD_eq fun i _ => ?_
    simp only [twoBits, BitVec.getLsbD_ushiftRight]
    by_cases hi : i < 2
    · have hbit := getLsbD_of_byte (b := 1) (i := 6 + i) (h 1 (by decide) (.inr (Nat.le_refl 1))) (by omega)
      rw [show 14 + i = 8 * 1 + (6 + i) by omega]
      exact hbit
    · rw [getLsbD_of_lowBytes hv (by simp only [elemSize]; omega), getLsbD_of_lowBytes hw (by simp only [elemSize]; omega)]
  | f32 => exact absurd rfl ht

theorem sound_pack1010102 : pack1010102Op.Sound := by
  intro x _ hl ha k v w h
  have hst : x.f.st ≠ .f32 := by
    simp only [pack1010102Op, Bool.and_eq_true, decide_eq_true_eq] at hl
    exact hl.1.1
  have hvw : ∀ slot, slot < 3 → v slot = w slot := fun slot hs =>
    h.slot_eq (lt_of_lt_of_le hs (namedSrcs_length _ x)) fun _ => by
      simp only [pack1010102Op, decide_eq_true hs, Bool.true_or]
  have halpha : twoBits x.f.st (if x.f.am = .const then rawAlpha x.f.st x.args else v 3)
      = twoBits x.f.st (if x.f.am = .const then rawAlpha x.f.st x.args else w 3) := by
    split
    · rfl
    · next hnc =>
      have hp : x.f.am = .pass := by
        simp only [pack1010102Op, decide_eq_false hnc, Bool.false_or, Bool.and_eq_true, decide_eq_true_eq] at ha
        exact ha.1
      have hlen : 3 < (pack1010102Op.srcElems x).length := namedSrcs_length_pass hp
      obtain ⟨hv, hw, hb⟩ := h 3 _ (List.getElem?_eq_getElem hlen)
      have hunit : (pack1010102Op.srcElems x)[3].buf.unit = elemSize x.f.st :=
        congrArg BufArg.unit (namedSrcs_buf _ (List.getElem_mem hlen))
      rw [hunit] at hv hw hb
      refine twoBits_eq hst hv hw fun b hlt hor => hb b hlt ?_
      simpa [pack1010102Op] using hor
  simp only [pack1010102Op, hvw 0 (by decide), hvw 1 (by decide), hvw 2 (by decide), pack1010102Word, halpha]

/-- Readings of a single packed word of `n` bytes agree on a field whose bytes count. -/
theorem Agree.field_eq {op : JobOp} {x : JobCtx} {k : Nat} {v w : Nat → Word} (h : Agree op x k v w) {b : BufArg}
    (hsrc : op.srcElems x = [wholeRef b]) {lo len : Nat} (hlen : 0 < len) (hn : lo + len ≤ 8 * b.unit)
    (hdep : ∀ i, inField lo (lo + len - 1) i = true → op.dep x k 0 i = true) : field (v 0) lo len = field (w 0) lo len := by
  obtain ⟨-, -, hb⟩ := h 0 (wholeRef b) (by rw [hsrc]; rfl)
  exact field_eq_of_bytes hlen hn fun i hi hin => hb i hi (hdep i hin)

theorem sound_unpack565 {types : ElemType → Bool} {f0 f1 f2 : ElemType → Word → Word} :
    (unpack565Op types fun t w => [f0 t (red5 w), f1 t (green6 w), f2 t (blue5 w)]).Sound := by
  intro x _ _ _ k v w h
  refine getElem?_three_append (fun hk => ?_) (fun hk => ?_) (fun hk => ?_) fun i _ => rfl
  · subst hk
    exact congrArg (f0 x.f.dt) (h.field_eq (b := bufS x 2 2) rfl (by decide) (Nat.le_refl 16) fun i hi => hi)
  · subst hk
    exact congrArg (f1 x.f.dt) (h.field_eq (b := bufS x 2 2) rfl (by decide) (show 5 + 6 ≤ 16 by decide) fun i hi => hi)
  · subst hk
    exact congrArg (f2 x.f.dt) (h.field_eq (b := bufS x 2 2) rfl (by decide) (show 0 + 5 ≤ 16 by decide) fun i hi => hi)

theorem sound_unpack1010102 {types : ElemType → Bool} {colour alpha : ElemType → Word → Word} :
    (unpack1010102Op types colour alpha).Sound := by
  intro x _ _ _ k v w h
  refine getElem?_three_append (fun hk => ?_) (fun hk => ?_) (fun hk => ?_) fun i hk => alphaOut_getElem? fun hp hi => ?_
  · subst hk
    exact congrArg (colour x.f.dt) (h.field_eq (b := bufS x 4 4) rfl (by decide) (show 0 + 10 ≤ 32 by decide) fun i hi => hi)
  · subst hk
    exact congrArg (colour x.f.dt) (h.field_eq (b := bufS x 4 4) rfl (by decide) (show 10 + 10 ≤ 32 by decide) fun i hi => hi)
  · subst hk
    exact congrArg (colour x.f.dt) (h.field_eq (b := bufS x 4 4) rfl (by decide) (show 20 + 10 ≤ 32 by decide) fun i hi => hi)
  · subst hi hk
    refine congrArg (alpha x.f.dt) (h.field_eq (b := bufS x 4 4) rfl (by decide) (Nat.le_refl 32) fun i hi => ?_)
    simp only [unpack1010102Op, hp, decide_true, Bool.true_and]
    exact hi

/-! ### The compare commands (R450) -/

theorem sound_compare (dt : ElemType) (spaces : EqSpace → Bool) (fn : JobCtx → Tri → Tri → Word) :
    (compareOp dt spaces fn).Sound := by
  intro x _ _ _ k v w h
  have hvw : ∀ slot, slot < 6 → v slot = w slot := fun slot hs => h.slot_eq (by exact hs) fun _ => rfl
  have hs : rawIn v = rawIn w := by
    rw [rawIn, rawIn, hvw 0 (by decide), hvw 1 (by decide), hvw 2 (by decide)]
  have hs2 : rawIn2 v = rawIn2 w := by
    simp only [rawIn2, rawIn, hvw 3 (by decide), hvw 4 (by decide), hvw 5 (by decide), Nat.zero_add, Nat.reduceAdd]
  simp only [compareOp, hs, hs2]

/-! ### Every command -/

theorem sound_of_jobOf {i : Instr} {op : JobOp} {c : Cmd} (h : jobOf i = some (op, c)) : op.Sound := by
  cases i <;> cases h
  case linearize | gamma | copy => exact sound_rgbSide rfl rfl rfl
  case rgbToSigmoid => exact sound_forward fun _ => dependsBy_separate _
  case sigmoidToRgb => exact sound_inverse fun _ => dependsBy_separate _
  case xyzToLab => exact sound_kernel fun _ => dependsBy_xyzToLab _ _
  case labToXyz => exact sound_kernel fun _ => dependsBy_labToXyz _
  case xyzToLuv => exact sound_kernel fun _ => dependsBy_xyzToLuv _ _
  case luvToXyz => exact sound_kernel fun _ => dependsBy_luvToXyz _
  case luvToLch | oklabToOklch | jzazbzToJzczhz => exact sound_kernel fun _ => dependsBy_toPolar _
  case lchToLuv | oklchToOklab | jzczhzToJzazbz => exact sound_kernel fun _ => dependsBy_fromPolar _
  case xyzToJzazbz | jzazbzToXyz | xyzToLalphabeta | lalphabetaToXyz => exact sound_kernel fun _ => dependsBy_mixed _
  case rgbToXyz | rgbToLab | rgbToLuv | rgbToLch | rgbToOklab | rgbToOklch | rgbToJzazbz | rgbToJzczhz | rgbToHsv | rgbToHsl
      | rgbToLalphabeta => exact sound_forward fun _ => dependsBy_mixed _
  case xyzToRgb | labToRgb | luvToRgb | lchToRgb | oklabToRgb | oklchToRgb | jzazbzToRgb | jzczhzToRgb | hsvToRgb | hslToRgb
      | lalphabetaToRgb => exact sound_inverse fun _ => dependsBy_mixed _
  case expand => exact sound_expand
  case strip => exact sound_strip
  case deinterleave => exact sound_deinterleave
  case interleave => exact sound_interleave
  case pack565 => exact sound_pack565
  case pack1010102 => exact sound_pack1010102
  case unpack565Shifted | unpack565Scaled => exact sound_unpack565
  case unpack1010102Shifted | unpack1010102Scaled => exact sound_unpack1010102
  case distEuclid | distTaxicab | cmpEq => exact sound_compare _ _ _

/-- Settles O60: every command's template is sound. -/
theorem dependenciesAreSound : Obligations.DependenciesAreSound :=
  fun _ _ _ x hi hf hl ha k v w h => sound_of_jobOf hi x (resolve_pos_lt hf) hl ha k v w h

end Sys2Proof.Machine
end

section
/-! PROOFS. The encoding (R141, R149, R150, R156, R157): the code tables and the opcode map are inverse to each other, the
words that decode to a command, and the encoder as the inverse of the decoder (O1, O2, O3). -/

namespace Sys2Proof

/-! ### The code tables (R142 to R148) -/

@[simp] theorem Layout.ofCode_code (l : Layout) : Layout.ofCode l.code = l := by cases l <;> rfl

@[simp] theorem TypeCode.ofCode_code : ∀ t : TypeCode, TypeCode.ofCode t.code = t
  | .elem t => by cases t <;> rfl
  | .reserved => rfl

@[simp] theorem TfCode.ofCode_code : ∀ t : TfCode, TfCode.ofCode t.code = t
  | .curve c => by cases c <;> rfl
  | .reserved k => by fin_cases k <;> rfl

@[simp] theorem AmodeCode.ofCode_code : ∀ a : AmodeCode, AmodeCode.ofCode a.code = a
  | .mode m => by cases m <;> rfl
  | .reserved => rfl

@[simp] theorem SpaceCode.ofCode_code : ∀ p : SpaceCode, SpaceCode.ofCode p.code = p
  | .space e => by cases e <;> rfl
  | .reserved k => by fin_cases k <;> rfl

/-! A field of `len` bits holds a code below `2 ^ len`, and no two of these stand for the same value. -/

theorem Layout.code_ofCode {n : Nat} (h : n < 4) : (Layout.ofCode n).code = n := by interval_cases n <;> rfl
theorem TypeCode.code_ofCode {n : Nat} (h : n < 4) : (TypeCode.ofCode n).code = n := by interval_cases n <;> rfl
theorem TfCode.code_ofCode {n : Nat} (h : n < 16) : (TfCode.ofCode n).code = n := by interval_cases n <;> rfl
theorem AmodeCode.code_ofCode {n : Nat} (h : n < 4) : (AmodeCode.ofCode n).code = n := by interval_cases n <;> rfl
theorem SpaceCode.code_ofCode {n : Nat} (h : n < 8) : (SpaceCode.ofCode n).code = n := by interval_cases n <;> rfl

/-! ### The opcode map (R150) -/

/-- The map gives the command of that OP with those fields, and no other. -/
theorem ofOpcode_eq_some_iff {n : Nat} {c : Cmd} {i : Instr} :
    ofOpcode n c = some i ↔ i.opcode = n ∧ i.cmd? = some c := by
  constructor
  · intro h
    unfold ofOpcode at h
    split at h <;> cases h <;> exact ⟨rfl, rfl⟩
  · rintro ⟨rfl, hc⟩
    cases i <;> cases hc <;> rfl

/-- The OP values of the table. -/
theorem Instr.opcode_listed (i : Instr) :
    i.opcode ≤ 0x02 ∨ 0x10 ≤ i.opcode ∧ i.opcode ≤ 0x27 ∨ 0x30 ≤ i.opcode ∧ i.opcode ≤ 0x3D
      ∨ 0x40 ≤ i.opcode ∧ i.opcode ≤ 0x4A ∨ 0x50 ≤ i.opcode ∧ i.opcode ≤ 0x52 := by
  cases i <;> simp [Instr.opcode]

theorem Instr.opcode_lt (i : Instr) : i.opcode < 2 ^ 8 := by
  have := i.opcode_listed
  omega

/-- OP 0 is NOP's alone, and NOP alone has no fields. -/
theorem Instr.opcode_ne_zero {i : Instr} {c : Cmd} (h : i.cmd? = some c) : i.opcode ≠ 0 := by
  cases i <;> cases h <;> exact Nat.succ_ne_zero _

theorem Instr.cmd?_eq_none {i : Instr} (h : i.cmd? = none) : i = .nop := by
  cases i <;> cases h
  rfl

/-! ### The words of a command -/

/-- R331: OP 0 is NOP, whatever the other bits. -/
theorem decode_of_op_zero {w : Word} (h : bits w 0 8 = 0) : decode w = .ok .nop := if_pos h

/-- R149, R150, R157: the word of any other command has its reserved bits 0, its OP in bits 7:0 and its fields in the
others. -/
theorem decode_eq_ok_iff {w : Word} (h0 : bits w 0 8 ≠ 0) {i : Instr} :
    decode w = .ok i ↔ (bits w 23 1 = 0 ∧ bits w 29 3 = 0) ∧ i.opcode = bits w 0 8 ∧ i.cmd? = some (decodeFields w) := by
  rw [← ofOpcode_eq_some_iff, decode, if_neg h0]
  split
  · next hr => exact ⟨nofun, fun ⟨hz, _⟩ => absurd hr (by omega)⟩
  · next hr =>
    have hz : bits w 23 1 = 0 ∧ bits w 29 3 = 0 := by omega
    cases ofOpcode (bits w 0 8) (decodeFields w) <;> simp [hz]

/-! ### The fields of an encoded command -/

/-- Each code fits in its field (R141). -/
theorem Cmd.codes_lt (c : Cmd) :
    c.srcLayout.code < 2 ^ 2 ∧ c.srcType.code < 2 ^ 2 ∧ c.dstLayout.code < 2 ^ 2 ∧ c.dstType.code < 2 ^ 2
      ∧ c.tf.code < 2 ^ 4 ∧ c.amode.code < 2 ^ 2 ∧ c.imm.toNat < 2 ^ 1 ∧ c.pos.val < 2 ^ 2 ∧ c.space.code < 2 ^ 3 :=
  ⟨Laws.Encoding.layout_code_lt _, Laws.Encoding.type_code_lt _, Laws.Encoding.layout_code_lt _,
    Laws.Encoding.type_code_lt _, Laws.Encoding.tf_code_lt _, Laws.Encoding.amode_code_lt _, c.imm.toNat_lt, c.pos.isLt,
    Laws.Encoding.space_code_lt _⟩

theorem encodeFields_lt (c : Cmd) : encodeFields c < 2 ^ 29 := by
  obtain ⟨hsl, hst, hdl, hdt, htf, ham, himm, hpos, hsp⟩ := c.codes_lt
  unfold encodeFields
  omega

/-- The encoder's sum fits in the word, so each field of the word is a field of the sum. -/
theorem bits_encode {i : Instr} {c : Cmd} (hc : i.cmd? = some c) (lo len : Nat) :
    bits (encode i) lo len = (i.opcode + encodeFields c) / 2 ^ lo % 2 ^ len := by
  have hop := i.opcode_lt
  have hf := encodeFields_lt c
  simp only [encode, hc]
  exact Machine.bits_ofNat (by omega) lo len

/-- R156, R157: the terms of the encoder's sum do not overlap, so the decoder reads each code back. -/
theorem decodeFields_encode {i : Instr} {c : Cmd} (hc : i.cmd? = some c) : decodeFields (encode i) = c := by
  have hop := i.opcode_lt
  obtain ⟨hsl, hst, hdl, hdt, htf, ham, himm, hpos, hsp⟩ := c.codes_lt
  have hw := bits_encode hc
  unfold encodeFields at hw
  have h8 : bits (encode i) 8 2 = c.srcLayout.code := by rw [hw]; omega
  have h10 : bits (encode i) 10 2 = c.srcType.code := by rw [hw]; omega
  have h12 : bits (encode i) 12 2 = c.dstLayout.code := by rw [hw]; omega
  have h14 : bits (encode i) 14 2 = c.dstType.code := by rw [hw]; omega
  have h16 : bits (encode i) 16 4 = c.tf.code := by rw [hw]; omega
  have h20 : bits (encode i) 20 2 = c.amode.code := by rw [hw]; omega
  have h22 : bits (encode i) 22 1 = c.imm.toNat := by rw [hw]; omega
  have h24 : bits (encode i) 24 2 = c.pos.val := by rw [hw]; omega
  have h26 : bits (encode i) 26 3 = c.space.code := by rw [hw]; omega
  simp [decodeFields, h8, h10, h12, h14, h16, h20, h22, h24, h26]

/-- Settles O1: NOP is the word 0, and any other command's word has its OP, its fields and no reserved bit. -/
theorem encodeThenDecode : Obligations.EncodeThenDecode := by
  intro i
  cases hc : i.cmd? with
  | none =>
    rw [Instr.cmd?_eq_none hc]
    obtain ⟨hop, -⟩ := Laws.Encoding.nop
    exact decode_of_op_zero hop
  | some c =>
    obtain ⟨hop, h23, h29⟩ : Laws.Encoding.Statement i := Laws.Encoding.of_cmd hc i.opcode_lt
    have h0 : bits (encode i) 0 8 ≠ 0 := hop ▸ Instr.opcode_ne_zero hc
    exact (decode_eq_ok_iff h0).mpr ⟨⟨h23, h29⟩, hop.symm, (decodeFields_encode hc).symm ▸ hc⟩

/-! ### The word of a decoded command -/

theorem bits_lt (w : Word) (lo len : Nat) : bits w lo len < 2 ^ len := Nat.mod_lt _ (Nat.two_pow_pos len)

/-- R156, R157: the encoder puts each field back where the decoder read it. -/
theorem encodeFields_decodeFields (w : Word) :
    encodeFields (decodeFields w) = bits w 8 2 * 2 ^ 8 + bits w 10 2 * 2 ^ 10 + bits w 12 2 * 2 ^ 12
      + bits w 14 2 * 2 ^ 14 + bits w 16 4 * 2 ^ 16 + bits w 20 2 * 2 ^ 20 + bits w 22 1 * 2 ^ 22
      + bits w 24 2 * 2 ^ 24 + bits w 26 3 * 2 ^ 26 := by
  have himm : (decide (bits w 22 1 = 1)).toNat = bits w 22 1 := by
    rcases Nat.le_one_iff_eq_zero_or_eq_one.mp (Nat.le_of_lt_succ (bits_lt w 22 1)) with h | h <;> rw [h] <;> rfl
  have hpos : (Fin.ofNat 4 (bits w 24 2)).val = bits w 24 2 := Nat.mod_eq_of_lt (bits_lt w 24 2)
  simp only [encodeFields, decodeFields, Layout.code_ofCode (bits_lt w _ 2), TypeCode.code_ofCode (bits_lt w _ 2),
    TfCode.code_ofCode (bits_lt w _ 4), AmodeCode.code_ofCode (bits_lt w _ 2), SpaceCode.code_ofCode (bits_lt w _ 3),
    himm, hpos]

/-- A word is the sum of its fields in their places, once its reserved bits are 0 (R141, R149). -/
theorem toNat_eq_sum_bits {w : Word} (h23 : bits w 23 1 = 0) (h29 : bits w 29 3 = 0) :
    w.toNat = bits w 0 8 + encodeFields (decodeFields w) := by
  have hw := w.isLt
  rw [encodeFields_decodeFields]
  unfold bits at *
  omega

/-- Settles O2: OP and the fields of the word are those of the command, and the word has no other bit. -/
theorem decodeThenEncode : Obligations.DecodeThenEncode := by
  intro w i hd hn
  have h0 : bits w 0 8 ≠ 0 := fun h => hn (Except.ok.inj (hd.symm.trans (decode_of_op_zero h)))
  obtain ⟨⟨h23, h29⟩, hop, hc⟩ := (decode_eq_ok_iff h0).mp hd
  simp only [encode, hc]
  rw [hop, ← toNat_eq_sum_bits h23 h29, BitVec.ofNat_toNat, BitVec.setWidth_eq]

/-- A word that the encoder writes for a command decodes to it. -/
theorem decode_of_encode {w : Word} {i : Instr} (h : encode i = w) : decode w = .ok i := h ▸ encodeThenDecode i

/-- Settles O3: each of the words is the one the encoder writes for its command (R160, R161), and O1 decodes it. -/
theorem sampleWordsDecode : Obligations.SampleWordsDecode :=
  ⟨decode_of_encode (by decide), decode_of_encode (by decide), decode_of_encode (by decide), decode_of_encode (by decide),
    decode_of_encode (by decide)⟩

end Sys2Proof
end

section
/-! PROOFS. Legality (R151, R512, R514): the rows of R151 as the engine tests them, and the refusals with ILLEGAL_CMD and
ALPHA (O5, O6, O21, O24). -/

namespace Sys2Proof.Machine

/-! ### The engine's tests of fields -/

@[simp] theorem csSide_iff {l : Layout} {t : ElemType} : csSide l t = true ↔ CsSide l t := by simp [csSide, CsSide]

@[simp] theorem plainFields_iff {x : JobCtx} : plainFields x = true ↔ Plain x.f := by simp [plainFields, Plain]

/-- The "legal when" column of R327. -/
@[simp] theorem polAlpha_iff {x : JobCtx} : polAlpha x = true ↔ AlphaLegal x.f := by
  unfold polAlpha AlphaLegal
  cases x.f.am <;> simp

/-- "SRC_LAYOUT+1" of R151. -/
theorem withAlpha_eq_some_iff {l m : Layout} :
    withAlpha l = some m ↔ l = .rgb ∧ m = .rgba ∨ l = .bgr ∧ m = .bgra := by
  cases l <;> simp [withAlpha, eq_comm]

/-! ### The rows of R151, but for AMODE, by template -/

theorem forwardOp_legal {params : List Param} {k : JobCtx → Tri → Tri} {g : Nat → Nat → Bool} {x : JobCtx} :
    (forwardOp params k g).legal x = true ↔ CsSide x.f.dl x.f.dt ∧ Plain x.f := by
  simp [forwardOp]

theorem inverseOp_legal {params : List Param} {k : JobCtx → Tri → Tri} {g : Nat → Nat → Bool} {x : JobCtx} :
    (inverseOp params k g).legal x = true ↔ CsSide x.f.sl x.f.st ∧ Plain x.f := by
  simp [inverseOp]

theorem kernelOp_legal {params : List Param} {k : JobCtx → Tri → Tri} {g : Nat → Nat → Bool} {x : JobCtx} :
    (kernelOp params k g).legal x = true
      ↔ CsSide x.f.sl x.f.st ∧ CsSide x.f.dl x.f.dt ∧ x.f.tf = .none ∧ Plain x.f := by
  simp [kernelOp, and_assoc]

theorem planarLegal_iff {x : JobCtx} : planarLegal x = true
    ↔ x.f.dl = x.f.sl ∧ x.f.dt = x.f.st ∧ x.f.tf = .none ∧ Plain x.f ∧ x.f.imm = false := by
  simp [planarLegal, sameType, and_assoc]

theorem unpack565Op_legal {types : ElemType → Bool} {colours : ElemType → Word → List Word} {x : JobCtx} :
    (unpack565Op types colours).legal x = true
      ↔ x.f.sl = .rgb ∧ x.f.st = .u8 ∧ types x.f.dt = true ∧ x.f.tf = .none ∧ Plain x.f := by
  simp [unpack565Op, zeroSide, packFields, and_assoc]

theorem unpack1010102Op_legal {types : ElemType → Bool} {colour alpha : ElemType → Word → Word} {x : JobCtx} :
    (unpack1010102Op types colour alpha).legal x = true
      ↔ x.f.sl = .rgb ∧ x.f.st = .u8 ∧ types x.f.dt = true ∧ x.f.tf = .none ∧ Plain x.f := by
  simp [unpack1010102Op, zeroSide, packFields, and_assoc]

theorem compareOp_legal {dt : ElemType} {spaces : EqSpace → Bool} {k : JobCtx → Tri → Tri → Word} {x : JobCtx} :
    (compareOp dt spaces k).legal x = true
      ↔ x.cfg.hasCompare = true ∧ CsSide x.f.sl x.f.st ∧ x.f.dl = .rgb ∧ x.f.dt = dt ∧ x.f.tf = .none
        ∧ (x.f.pos = 0 ∧ spaces x.f.sp = true) ∧ x.f.imm = false := by
  simp [compareOp, and_assoc]

/-- The engine's test is R151 but for its AMODE column: by the template's test, the one row of the opcode. -/
theorem legal_iff_fieldsLegal {i : Instr} {op : JobOp} {c : Cmd} (h : jobOf i = some (op, c)) (x : JobCtx) :
    op.legal x = true ↔ FieldsLegal i.opcode x.cfg.hasCompare x.f := by
  cases i <;> cases h
  case linearize => simp [linearizeOp, FieldsLegal, Instr.opcode]
  case gamma => simp [gammaOp, FieldsLegal, Instr.opcode]
  case copy => simp [copyOp, FieldsLegal, Instr.opcode]
  case expand =>
    simp [expandOp, FieldsLegal, Instr.opcode, withAlpha_eq_some_iff, sameType, layoutFields, and_assoc]
  case strip =>
    have hlayouts := (withAlpha_eq_some_iff (l := x.f.dl) (m := x.f.sl)).trans (or_congr and_comm and_comm)
    simp [stripOp, FieldsLegal, Instr.opcode, hlayouts, sameType, layoutFields, and_assoc]
  case deinterleave | interleave => exact planarLegal_iff.trans (by simp [FieldsLegal, Instr.opcode])
  case pack565 => simp [pack565Op, FieldsLegal, Instr.opcode, zeroSide, packFields, and_assoc]
  case pack1010102 => simp [pack1010102Op, FieldsLegal, Instr.opcode, zeroSide, packFields, and_assoc]
  case unpack565Shifted | unpack565Scaled => exact unpack565Op_legal.trans (by simp [FieldsLegal, Instr.opcode])
  case unpack1010102Shifted | unpack1010102Scaled =>
    exact unpack1010102Op_legal.trans (by simp [FieldsLegal, Instr.opcode])
  case distEuclid | distTaxicab => exact compareOp_legal.trans (by simp [FieldsLegal, Instr.opcode, Plain])
  case cmpEq => exact compareOp_legal.trans (by simp [FieldsLegal, Instr.opcode])
  case rgbToXyz | rgbToLab | rgbToLuv | rgbToLch | rgbToOklab | rgbToOklch | rgbToJzazbz | rgbToJzczhz | rgbToHsv | rgbToHsl
      | rgbToSigmoid | rgbToLalphabeta => exact forwardOp_legal.trans (by simp [FieldsLegal, Instr.opcode])
  case xyzToRgb | labToRgb | luvToRgb | lchToRgb | oklabToRgb | oklchToRgb | jzazbzToRgb | jzczhzToRgb | hsvToRgb | hslToRgb
      | sigmoidToRgb | lalphabetaToRgb => exact inverseOp_legal.trans (by simp [FieldsLegal, Instr.opcode])
  all_goals exact kernelOp_legal.trans (by simp [FieldsLegal, Instr.opcode])

/-! ### The AMODE column of R151 -/

theorem unpack1010102Op_alpha {types : ElemType → Bool} {colour alpha : ElemType → Word → Word} {x : JobCtx} :
    (unpack1010102Op types colour alpha).alpha x = true ↔ (x.f.am = .none ↔ hasAlpha x.f.dl = false) := by
  have h : (unpack1010102Op types colour alpha).alpha x = (decide (x.f.am = .none) != hasAlpha x.f.dl) := rfl
  rw [h]
  cases hasAlpha x.f.dl <;> simp

/-- The engine's test of AMODE is the opcode's entry of the column: its own for a layout or packing command, and the table
of R327 where the column reads "pol". -/
theorem alpha_iff_amodeLegal {i : Instr} {op : JobOp} {c : Cmd} (h : jobOf i = some (op, c)) (x : JobCtx) :
    op.alpha x = true ↔ AmodeLegal i.opcode x.f := by
  cases i <;> cases h
  case expand =>
    have ham : x.f.am ≠ .none ↔ x.f.am = .pass ∨ x.f.am = .const := by cases x.f.am <;> decide
    simp [expandOp, AmodeLegal, Instr.opcode, ham]
  case pack1010102 => simp [pack1010102Op, AmodeLegal, Instr.opcode, or_comm]
  case unpack1010102Shifted | unpack1010102Scaled =>
    exact unpack1010102Op_alpha.trans (by simp [AmodeLegal, Instr.opcode])
  case strip | deinterleave | interleave | pack565 | unpack565Shifted | unpack565Scaled | distEuclid | distTaxicab
      | cmpEq =>
    exact decide_eq_true_iff.trans (by simp [AmodeLegal, Instr.opcode])
  all_goals exact polAlpha_iff.trans (by simp [AmodeLegal, Instr.opcode])

/-! ### Refused commands -/

/-- R512 (c): the fields are resolved unless one of them holds a reserved code; the first that does decides. -/
theorem resolve_eq_none_iff : ∀ {c : Cmd}, resolve c = none ↔ c.wellFormed = false
  | ⟨_, .reserved, _, _, _, _, _, _, _⟩ => iff_of_true rfl rfl
  | ⟨_, .elem _, _, .reserved, _, _, _, _, _⟩ => iff_of_true rfl rfl
  | ⟨_, .elem _, _, .elem _, .reserved _, _, _, _, _⟩ => iff_of_true rfl rfl
  | ⟨_, .elem _, _, .elem _, .curve _, .reserved, _, _, _⟩ => iff_of_true rfl rfl
  | ⟨_, .elem _, _, .elem _, .curve _, .mode _, _, _, .reserved _⟩ => iff_of_true rfl rfl
  | ⟨_, .elem _, _, .elem _, .curve _, .mode _, _, _, .space _⟩ => iff_of_false nofun nofun

/-- R512 (c): the check step of a command with a reserved code is error entry. -/
theorem exec_of_unresolved {i : Instr} {op : JobOp} {c : Cmd} {s : State} {j : Job} (hi : jobOf i = some (op, c))
    (hs : Started s j) (hf : resolve c = none) :
    exec i s = .next (s.settled.errorEntry .illegalCmd j.args.cmd 0#32) :=
  exec_of_finishes hi hs (.last hs.running (by rw [engineStep, hf]; rfl) rfl)

/-- R512 (d): illegal fields are the first check to fail. -/
theorem firstErr_of_illegal {op : JobOp} {x : JobCtx} (hl : ¬op.legal x = true) :
    firstErr op x = some (illegalErr x.args) := by
  simp [firstErr, hl]

/-- R514: an AMODE outside its column fails after the fields and the checked registers have passed. -/
theorem firstErr_of_bad_amode {op : JobOp} {x : JobCtx} (hl : op.legal x = true)
    (hp : ∀ p ∈ checkedParams op x, isPosFinite (p.value x.args) = true) (ha : ¬op.alpha x = true) :
    firstErr op x = some ⟨.alpha, x.args.cmd, 0#32⟩ := by
  simp [firstErr, hl, paramErr_none hp, ha]

/-- R512 (d): the check step of a command whose fields break R151 is error entry. -/
theorem exec_of_illegal {i : Instr} {op : JobOp} {c : Cmd} {f : Fields} {s : State} {j : Job}
    (hi : jobOf i = some (op, c)) (hs : Started s j) (hf : resolve c = some f)
    (hl : ¬FieldsLegal i.opcode s.cfg.hasCompare f) :
    exec i s = .next (s.settled.errorEntry .illegalCmd j.args.cmd 0#32) :=
  exec_of_firstErr hi hs hf (firstErr_of_illegal fun h => hl ((legal_iff_fieldsLegal hi _).mp h))

/-- Settles O21: a reserved code, or the first check of the resolved fields. -/
theorem illegalFieldsAreRefused : Obligations.IllegalFieldsAreRefused := by
  refine ⟨fun i op c s j hi hs h => ?_, fun i op c x hi _ => legal_iff_fieldsLegal hi x⟩
  rcases h with hc | ⟨f, hf, hl⟩
  · exact exec_of_unresolved hi hs (resolve_eq_none_iff.mpr hc)
  · exact exec_of_illegal hi hs hf hl

/-- Settles O24: with the checks before it passed, the AMODE column is the next to fail (R511, R514). -/
theorem badAmodeIsAlpha : Obligations.BadAmodeIsAlpha := by
  intro i op c f s j hi hs hf x hl hp
  have hcolumn : op.alpha x = true ↔ AmodeLegal i.opcode f := alpha_iff_amodeLegal hi x
  exact ⟨fun ham => exec_of_firstErr hi hs hf (firstErr_of_bad_amode hl hp fun h => ham (hcolumn.mp h)), hcolumn⟩

/-! ### Steps of a job just accepted -/

/-- With no host action to come, the latched word is run. -/
theorem step_of_decode {s : State} {j : Job} {i : Instr} (hs : Started s j) (hd : decode j.args.cmd = .ok i) :
    step s = exec i s :=
  stepRunsDecodedCommand.1 s j i hs.running (.inl hs.alone) hd

/-- R153, R154, R512: a word that is no command ends the job with ILLEGAL_CMD. -/
theorem step_of_no_command {s : State} {j : Job} (hs : Started s j) (hd : ∀ i, decode j.args.cmd ≠ .ok i) :
    step s = .next (s.settled.errorEntry .illegalCmd j.args.cmd 0#32) := by
  have hfetch : s.fetch = some j.args.cmd := by rw [State.fetch, hs.running]; rfl
  cases h : decode j.args.cmd with
  | ok i => exact absurd h (hd i)
  | error e => simp only [step, State.hostTurn_none (.inl hs.alone), hfetch, h, undecodable]

/-- Settles O5: a word with a reserved bit set and an OP other than 0 is no command. -/
theorem reservedBitsAreIllegal : Obligations.ReservedBitsAreIllegal := by
  intro s j hs h0 hr
  refine step_of_no_command hs fun i hd => ?_
  obtain ⟨⟨h23, h29⟩, -⟩ := (decode_eq_ok_iff h0).mp hd
  exact hr.elim (· h23) (· h29)

/-- The compare rows of R151 ask for the compare unit (R154). -/
theorem FieldsLegal.hasCompare {n : Nat} {cmp : Bool} {f : Fields} (h : FieldsLegal n cmp f) (hlo : 0x50 ≤ n)
    (hhi : n ≤ 0x52) : cmp = true := by
  obtain ⟨-, -, -, -, -, -, -, -, -, -, -, -, hdist, heq⟩ := h
  by_cases hn : n = 0x52
  · exact (heq hn).1
  · have hmem : n ∈ [0x50, 0x51] := by simp only [List.mem_cons, List.not_mem_nil, or_false]; omega
    exact (hdist hmem).1

/-- R154: where the compare unit is absent a compare command is refused, whatever its fields. -/
theorem exec_compare_absent {i : Instr} {s : State} {j : Job} (hs : Started s j) (hop : 0x50 ≤ i.opcode)
    (hcmp : s.cfg.hasCompare = false) : exec i s = .next (s.settled.errorEntry .illegalCmd j.args.cmd 0#32) := by
  have hhi : i.opcode ≤ 0x52 := by
    have := i.opcode_listed
    omega
  cases hi : jobOf i with
  | none =>
    rw [jobOf_none hi] at hop
    exact absurd hop (by decide)
  | some p =>
    obtain ⟨op, c⟩ := p
    cases hf : resolve c with
    | none => exact exec_of_unresolved hi hs hf
    | some f =>
      refine exec_of_illegal hi hs hf fun hl => ?_
      rw [hl.hasCompare hop hhi] at hcmp
      cases hcmp

/-- Settles O6: an OP outside the table decodes to nothing, a compare command is refused by R151, and OP 0 is NOP. -/
theorem unlistedOpcodesAreIllegal : Obligations.UnlistedOpcodesAreIllegal := by
  intro s j hs op
  refine ⟨fun hop => step_of_no_command hs fun i hd => ?_, fun hlo hhi hcmp => ?_, fun hop => ?_⟩
  · have h0 : op ≠ 0 := by omega
    obtain ⟨-, hi, -⟩ := (decode_eq_ok_iff h0).mp hd
    have := i.opcode_listed
    omega
  · have h0 : op ≠ 0 := by omega
    by_cases hd : ∃ i, decode j.args.cmd = .ok i
    · obtain ⟨i, hd⟩ := hd
      obtain ⟨-, hi, -⟩ := (decode_eq_ok_iff h0).mp hd
      rw [step_of_decode hs hd]
      exact exec_compare_absent hs (hi ▸ hlo) hcmp
    · exact step_of_no_command hs (not_exists.mp hd)
  · rw [step_of_decode hs (decode_of_op_zero hop)]
    exact execNop_alone (hs.running ▸ Option.some_ne_none j) hs.alone

end Sys2Proof.Machine
end

section
/-! PROOFS. Quantization (R204; O55): the order of binary32 values is that of their magnitudes where no sign is set, so a
clamped sample is at most MAX, and rounding half up is a division of exact units. -/

namespace Sys2Proof.Machine

/-! ### Order and magnitude -/

theorem fUnits_eq_magUnits (x : F32) : fUnits x = magUnits (fMag x) := by
  unfold fUnits magUnits fExpField fFrac
  split
  · omega
  · rfl

/-- R20: between values that are no NaN, `a < b` fails exactly where `b` comes no later in the order. -/
theorem flt_eq_false_iff {a b : F32} (ha : isNaN a = false) (hb : isNaN b = false) :
    flt a b = false ↔ fKey b ≤ fKey a := by
  simp [flt, ha, hb]

theorem flt_eq_true_iff {a b : F32} :
    flt a b = true ↔ isNaN a = false ∧ isNaN b = false ∧ fKey a < fKey b := by
  simp [flt, and_assoc]

/-- The order key of a value not below zero is its magnitude. -/
theorem fKey_of_nonneg {x : F32} (h : 0 ≤ fKey x) : fKey x = fMag x := by
  unfold fKey at h ⊢
  split at h
  · next hs => rw [if_pos hs]; omega
  · next hs => rw [if_neg hs]

/-! ### The clamp (R204) -/

section
variable {max s : F32}

theorem clampSample_nan (h : isNaN s = true) : clampSample max s = posZero := by rw [clampSample, if_pos h]

theorem clampSample_negative (h : flt s posZero = true) : clampSample max s = posZero := by
  rw [clampSample, if_pos h, ite_self]

/-- A sample above a positive MAX is neither a NaN nor negative. -/
theorem clampSample_above (hmax : 0 ≤ fKey max) (h : flt max s = true) : clampSample max s = max := by
  obtain ⟨-, hn, hlt⟩ := flt_eq_true_iff.mp h
  have hneg : flt s posZero = false := (flt_eq_false_iff hn rfl).mpr (hmax.trans hlt.le)
  simp [clampSample, hn, hneg, h]

theorem clampSample_inside (hn : isNaN s = false) (hneg : flt s posZero = false) (h : flt max s = false) :
    clampSample max s = s := by
  simp [clampSample, hn, hneg, h]

/-- A sample between zero and MAX has at most the units of MAX. -/
theorem fUnits_le_of_inside (hmax : isNaN max = false) (hn : isNaN s = false) (hneg : flt s posZero = false)
    (h : flt max s = false) : fUnits s ≤ fUnits max := by
  have hlow : 0 ≤ fKey s := (flt_eq_false_iff hn rfl).mp hneg
  have hhigh : fKey s ≤ fKey max := (flt_eq_false_iff hmax hn).mp h
  have hmag : fMag s ≤ fMag max := by
    rwa [fKey_of_nonneg (Int.le_trans hlow hhigh), fKey_of_nonneg hlow, Int.ofNat_le] at hhigh
  rw [fUnits_eq_magUnits, fUnits_eq_magUnits]
  exact magUnits_strictMono.monotone hmag

theorem fUnits_clampSample_le (hmax : isNaN max = false) (s : F32) : fUnits (clampSample max s) ≤ fUnits max := by
  cases hn : isNaN s with
  | true => rw [clampSample_nan hn]; exact Nat.zero_le _
  | false =>
    cases hneg : flt s posZero with
    | true => rw [clampSample_negative hneg]; exact Nat.zero_le _
    | false =>
      cases h : flt max s with
      | true => simp [clampSample, hn, hneg, h]
      | false =>
        rw [clampSample_inside hn hneg h]
        exact fUnits_le_of_inside hmax hn hneg h

end

/-! ### Rounding half up -/

theorem roundHalfUp_bounds (s : F32) :
    roundHalfUp s * 2 ^ 149 ≤ fUnits s + 2 ^ 148 ∧ fUnits s + 2 ^ 148 < (roundHalfUp s + 1) * 2 ^ 149 := by
  unfold roundHalfUp
  omega

theorem roundHalfUp_le {s : F32} {n : Nat} (h : fUnits s ≤ n * 2 ^ 149) : roundHalfUp s ≤ n := by
  unfold roundHalfUp
  omega

/-- R10: MAX as a sample is exact. -/
theorem fOfNat_elemMax {t : ElemType} (ht : t ≠ .f32) : isNaN (fOfNat (elemMax t)) = false
    ∧ 0 ≤ fKey (fOfNat (elemMax t)) ∧ fUnits (fOfNat (elemMax t)) = elemMax t * 2 ^ 149 := by
  cases t with
  | f32 => exact absurd rfl ht
  | u8 => decide
  | u16 => decide

/-! ### Integer elements -/

section
variable {t : ElemType} (ht : t ≠ .f32)
include ht

theorem roundHalfUp_clampSample_le (s : F32) : roundHalfUp (clampSample (fOfNat (elemMax t)) s) ≤ elemMax t := by
  obtain ⟨hnan, -, hunits⟩ := fOfNat_elemMax ht
  exact roundHalfUp_le (hunits ▸ fUnits_clampSample_le hnan s)

theorem quant_eq (x : F32) : quant t x
    = BitVec.ofNat 32 (roundHalfUp (clampSample (fOfNat (elemMax t)) (fmul x (fOfNat (elemMax t))))) := by
  cases t with
  | f32 => exact absurd rfl ht
  | u8 | u16 => rfl

/-- R204: the value of an integer element is the rounded value of the clamped product, which fits. -/
theorem quant_toNat (x : F32) : (quant t x).toNat
    = roundHalfUp (clampSample (fOfNat (elemMax t)) (fmul x (fOfNat (elemMax t)))) := by
  have hfits : elemMax t < 2 ^ 32 := by cases t <;> decide
  rw [quant_eq ht, BitVec.toNat_ofNat, Nat.mod_eq_of_lt ((roundHalfUp_clampSample_le ht _).trans_lt hfits)]

end

/-- Settles O55: the clamp's four cases, and the bounds of rounding half up. -/
theorem quantizationRule : Obligations.QuantizationRule := by
  refine ⟨fun _ => rfl, ?_⟩
  intro t x ht
  rw [show (if t = .u8 then 255 else 65535) = elemMax t by
    cases t with
    | f32 => exact absurd rfl ht
    | u8 | u16 => rfl]
  intro max s k
  obtain ⟨hnan, hpos, hunits⟩ := fOfNat_elemMax ht
  have hk : k = roundHalfUp (clampSample (fOfNat (elemMax t)) s) := quant_toNat ht x
  have hzero : roundHalfUp posZero = 0 := by decide
  refine ⟨fun h => ?_, fun h => ?_, fun h => ?_, hk ▸ roundHalfUp_clampSample_le ht s, fun hn hneg h => ?_⟩
  · rw [hk, clampSample_nan h, hzero]
  · rw [hk, clampSample_negative h, hzero]
  · rw [hk, clampSample_above hpos h, roundHalfUp, hunits]
    omega
  · rw [hk, clampSample_inside hn hneg h]
    exact roundHalfUp_bounds s

end Sys2Proof.Machine
end

section
/-! PROOFS. The RGB-side commands LINEARIZE, GAMMA and COPY on a single pixel (R208, R210, R211, R401; O8): the checks of an
IMM job with checked registers, and the result by named channel. -/

namespace Sys2Proof.Machine

/-! ### The checks of an IMM job -/

/-- R359: GAMMA under TF = POWER, and the command's own registers. -/
theorem checkedParams_positive {op : JobOp} {x : JobCtx} (hg : GammaOk x.args x.f.tf)
    (hp : AllPositive x.args op.params) : ∀ p ∈ checkedParams op x, isPosFinite (p.value x.args) = true := by
  refine List.forall_mem_append.mpr ⟨fun p hmem => ?_, hp⟩
  split at hmem
  · next ht =>
    rw [List.mem_singleton.mp hmem]
    exact hg ht
  · exact absurd hmem List.not_mem_nil

/-- R511: an IMM job passes where its fields and AMODE are legal and its checked registers are finite and positive. -/
theorem firstErr_imm_of_positive {op : JobOp} {x : JobCtx} (hl : op.legal x = true)
    (hp : ∀ p ∈ checkedParams op x, isPosFinite (p.value x.args) = true) (ha : op.alpha x = true)
    (himm : x.f.imm = true) : firstErr op x = none := by
  simp [firstErr, hl, paramErr_none hp, ha, addressed_of_imm himm]

/-! ### The result -/

section
variable {op : JobOp} {x : JobCtx}

/-- R321, R323: where a command reads its source by name, slots 0 to 2 are the named colours of an IMM pixel. -/
theorem immSlot_named (hs : op.srcElems x = polSrcs x) : immSlot op x 0 = (immRgb x.args x.f).c0
    ∧ immSlot op x 1 = (immRgb x.args x.f).c1 ∧ immSlot op x 2 = (immRgb x.args x.f).c2 := by
  unfold immSlot
  rw [hs]
  exact ⟨rfl, rfl, rfl⟩

/-- R327, R328: the alpha element of an IMM pixel, where the destination gets one. -/
theorem alphaOut_named (hs : op.srcElems x = polSrcs x) : alphaOut x (conv x.f.st x.f.dt (immSlot op x 3))
    = if x.f.am = .none then [] else [immAlpha x.args x.f] := by
  unfold immSlot
  rw [hs, polSrcs, namedSrcs, alphaOut, immAlpha]
  cases x.f.am <;> rfl

/-- Named colours and alpha go to the registers of their channels (R322, R323); PIX_OUT3 is 0 where there is no alpha
(R72). -/
theorem immResult_named {r g b : Word} (hd : op.dstElems x = polDsts x)
    (hb : op.body x (immSlot op x) = [r, g, b] ++ if x.f.am = .none then [] else [immAlpha x.args x.f]) :
    immResult op x = namedQuad x.f.dl r g b (immAlpha x.args x.f) := by
  rw [immResult_eq, hd, hb, polDsts]
  split
  · next ham =>
    rw [immAlpha, ham]
    cases x.f.dl <;> rfl
  · cases x.f.dl <;> rfl

end

/-- R208: the result of an RGB-side command on an IMM pixel. -/
theorem immResult_rgbSide (g : JobCtx → Word → Word) (x : JobCtx) :
    immResult (rgbSideOp g) x = rgbSideImm x.args x.f (g x) := by
  obtain ⟨h0, h1, h2⟩ := immSlot_named (op := rgbSideOp g) (x := x) rfl
  refine immResult_named rfl ?_
  rw [← alphaOut_named (op := rgbSideOp g) rfl, ← h0, ← h1, ← h2]
  rfl

/-- Settles O8: the checks pass, and the result is the curve's or the conversion's, channel by channel. -/
theorem rgbSideSinglePixel : Obligations.RgbSideSinglePixel := by
  intro s j c f hs hf himm hplain halpha a
  have hpol : polAlpha (ctxOf s j f) = true := polAlpha_iff.mpr halpha
  have hok : ∀ {op : JobOp}, op.legal (ctxOf s j f) = true → op.params = [] → op.alpha = polAlpha →
      GammaOk a f.tf → firstErr op (ctxOf s j f) = none := fun {op} hl hp ha hg =>
    firstErr_imm_of_positive hl (checkedParams_positive hg (hp ▸ nofun)) (ha ▸ hpol) himm
  have hfields : plainFields (ctxOf s j f) = true := plainFields_iff.mpr hplain
  refine ⟨fun htf hg => ?_, fun htf hg => ?_, fun htf => ?_⟩
  · have hlegal : linearizeOp.legal (ctxOf s j f) = true := Bool.and_eq_true_iff.mpr ⟨decide_eq_true htf, hfields⟩
    rw [exec_imm (i := .linearize c) rfl hs hf himm (hok hlegal rfl rfl hg)]
    exact congrArg (fun q => Host.Outcome.next (immDone s q)) (immResult_rgbSide linearizeElem _)
  · have hlegal : gammaOp.legal (ctxOf s j f) = true := Bool.and_eq_true_iff.mpr ⟨decide_eq_true htf, hfields⟩
    rw [exec_imm (i := .gamma c) rfl hs hf himm (hok hlegal rfl rfl hg)]
    exact congrArg (fun q => Host.Outcome.next (immDone s q)) (immResult_rgbSide gammaElem _)
  · have hlegal : copyOp.legal (ctxOf s j f) = true := Bool.and_eq_true_iff.mpr ⟨decide_eq_true htf, hfields⟩
    have hg : GammaOk a f.tf := fun hpow => absurd (htf.symm.trans hpow) (by decide)
    rw [exec_imm (i := .copy c) rfl hs hf himm (hok hlegal rfl rfl hg)]
    exact congrArg (fun q => Host.Outcome.next (immDone s q)) (immResult_rgbSide (fun x w => conv x.f.st x.f.dt w) _)

end Sys2Proof.Machine
end

section
/-! PROOFS. One-pixel buffer jobs of every command (R320; O18), and the lookup table after a job (R200, R202; O33). -/

namespace Sys2Proof.Machine

/-! ### One pixel -/

/-- Settles O18: the run of a one-pixel job, every element of which lies in an argument of the command. -/
theorem onePixelBufferJob : Obligations.OnePixelBufferJob := by
  intro i op c f s j hi hs hf himm htape hfree hw hh x hok
  have hplaced := placed_of_jobOf hi
  refine exec_onePixel_faultFree hi hs hf himm htape hfree hw hh hok
    (List.forall_mem_append.mpr ⟨fun e he => ?_, fun e he => ?_⟩)
  · exact List.mem_append_left _ (hplaced.srcBuf x himm e he)
  · exact List.mem_append_right _ (hplaced.dstBuf x e he)

/-! ### The table at the end of a job -/

/-- However a traversal ends, it has left the table it started with. -/
theorem Traversal.lut {op : JobOp} {x : JobCtx} {s t : State} (h : Traversal op x s t) : t.lut = s.lut := by
  obtain _ | _ | _ := h
  · rfl
  · exact State.settled_lut _
  · exact State.settled_lut _

theorem finishStep_lut (op : JobOp) (x : JobCtx) (s : State) : (finishStep op x s).lut = s.lut := by
  unfold finishStep
  split <;> exact s.settled_lut

/-- A job that makes no access, or that a check refuses, leaves the table (R511, R520, R522). -/
theorem exec_lut_of_no_access {i : Instr} {op : JobOp} {c : Cmd} {f : Fields} {s t : State} {j : Job}
    (hi : jobOf i = some (op, c)) (hs : Started s j) (hf : resolve c = some f) (ht : exec i s = .next t)
    (h : addressed (ctxOf s j f) = false ∨ firstErr op (ctxOf s j f) ≠ none) : t.lut = s.lut := by
  cases hok : firstErr op (ctxOf s j f) with
  | some e =>
    rw [exec_of_firstErr hi hs hf hok] at ht
    cases ht
    exact s.settled_lut
  | none =>
    rw [exec_finish hi hs hf (h.resolve_right fun hne => hne hok) hok] at ht
    cases ht
    exact finishStep_lut op _ _

/-! ### The jobs that need the table -/

/-- R202: LINEARIZE and the forward commands. -/
theorem linearizes_iff_opcode {i : Instr} {op : JobOp} {c : Cmd} (h : jobOf i = some (op, c)) :
    op.linearizes = true ↔ i.opcode = 1 ∨ (0x10 ≤ i.opcode ∧ i.opcode ≤ 0x26 ∧ i.opcode % 2 = 0) := by
  cases i <;> cases h
  case linearize => exact iff_of_true rfl (.inl rfl)
  case rgbToXyz | rgbToLab | rgbToLuv | rgbToLch | rgbToOklab | rgbToOklch | rgbToJzazbz | rgbToJzczhz | rgbToHsv | rgbToHsl
      | rgbToSigmoid | rgbToLalphabeta => exact iff_of_true rfl (.inr (by simp [Instr.opcode]))
  all_goals exact iff_of_false Bool.false_ne_true (by simp [Instr.opcode])

/-- R202: the table is invalid, for another curve, or under POWER for another GAMMA. -/
theorem lutStale_iff {l : Lut} {tf : Curve} {g : F32} :
    lutStale l tf g = true ↔ l.valid = false ∨ l.tf ≠ tf ∨ (tf = .power ∧ l.gamma ≠ g) := by
  simp only [lutStale, Bool.or_eq_true, Bool.and_eq_true, Bool.not_eq_true', decide_eq_true_eq, or_assoc]

theorem needsFill_iff {op : JobOp} {x : JobCtx} {l : Lut} : needsFill op x l = true
    ↔ op.linearizes = true ∧ x.f.st = .u8 ∧ x.f.tf ≠ .none ∧ lutStale l x.f.tf x.args.gamma = true := by
  simp only [needsFill, Bool.and_eq_true, decide_eq_true_eq, and_assoc]

/-- Settles O33: a job that makes accesses fills the table before the first if it needs to, and no other job reaches the
fill. -/
theorem tableIsFilledAsNeeded : Obligations.TableIsFilledAsNeeded := by
  intro i op c f s j hi hs hf t ht x
  refine ⟨fun hx hok => ?_, exec_lut_of_no_access hi hs hf ht, ?_⟩
  · obtain ⟨u, hexec, -, htrav⟩ := exec_traversal hi hs hf hx hok
    cases ht.symm.trans hexec
    exact htrav.lut
  · rw [needsFill_iff, linearizes_iff_opcode hi, lutStale_iff]
    rfl

end Sys2Proof.Machine
end

section
/-! PROOFS. The twelve forward and the twelve inverse colorspace commands on a single pixel (R269, R332, R333; O9, O10): one
rule for each template, which every command's kernel chain is put into. -/

namespace Sys2Proof.Machine

/-! ### The results, by template -/

/-- R158: a colorspace side has its coordinates, and then its alpha, in the order of the registers. -/
theorem namedQuad_csSide {l : Layout} {t : ElemType} (h : CsSide l t) (c0 c1 c2 a : Word) :
    namedQuad l c0 c1 c2 a = ⟨c0, c1, c2, a⟩ := by
  obtain ⟨rfl | rfl, -⟩ := h <;> rfl

/-- R321, R323: the named colours of an IMM pixel, by slot. -/
theorem immRgb_eq_slots {op : JobOp} {x : JobCtx} (hs : op.srcElems x = polSrcs x) :
    immRgb x.args x.f = ⟨immSlot op x 0, immSlot op x 1, immSlot op x 2⟩ := by
  obtain ⟨h0, h1, h2⟩ := immSlot_named hs
  rw [h0, h1, h2]

section
variable {params : List Param} {k : JobCtx → Tri → Tri} {g : Nat → Nat → Bool} {x : JobCtx}

/-- R332: the result of a forward command on an IMM pixel. -/
theorem immResult_forward (h : CsSide x.f.dl x.f.dt) :
    immResult (forwardOp params k g) x = forwardImm x.cfg x.args x.f (k x) := by
  refine (immResult_named rfl ?_).trans (namedQuad_csSide h _ _ _ _)
  rw [← alphaOut_named (op := forwardOp params k g) rfl, immRgb_eq_slots (op := forwardOp params k g) rfl]
  rfl

/-- R333: the result of an inverse command on an IMM pixel. -/
theorem immResult_inverse : immResult (inverseOp params k g) x = inverseImm x.cfg x.args x.f (k x) := by
  refine immResult_named rfl ?_
  rw [← alphaOut_named (op := inverseOp params k g) rfl, immRgb_eq_slots (op := inverseOp params k g) rfl]
  rfl

end

/-! ### The commands -/

/-- R330, R511: an IMM job runs to its end where its fields and AMODE are legal and its checked registers are finite and
positive (R359). -/
theorem exec_imm_of_positive {i : Instr} {op : JobOp} {c : Cmd} {f : Fields} {s : State} {j : Job}
    (hi : jobOf i = some (op, c)) (hs : Started s j) (hf : resolve c = some f) (himm : f.imm = true)
    (hl : op.legal (ctxOf s j f) = true) (ha : op.alpha (ctxOf s j f) = true) (hg : GammaOk j.args f.tf)
    (hp : AllPositive j.args op.params) : exec i s = .next (immDone s (immResult op (ctxOf s j f))) :=
  exec_imm hi hs hf himm (firstErr_imm_of_positive hl (checkedParams_positive hg hp) ha himm)

/-- Settles O9: each command is the forward template with its chain of R269 and its registers of R359. -/
theorem forwardSinglePixel : Obligations.ForwardSinglePixel := by
  intro s j c f hs hf himm hcs hplain halpha hg a e
  have run : ∀ (i : Instr) {params : List Param} {k : JobCtx → Tri → Tri} {g : Nat → Nat → Bool},
      jobOf i = some (forwardOp params k g, c) → AllPositive a params →
      exec i s = .next (immDone s (forwardImm s.cfg a f (k (ctxOf s j f)))) := fun i params k g hi hp => by
    rw [exec_imm_of_positive hi hs hf himm (forwardOp_legal.mpr ⟨hcs, hplain⟩) (polAlpha_iff.mpr halpha) hg hp,
      immResult_forward hcs]
    rfl
  exact ⟨(run (.rgbToXyz c) rfl :), (run (.rgbToLab c) rfl :), (run (.rgbToLuv c) rfl :), (run (.rgbToLch c) rfl :),
    (run (.rgbToOklab c) rfl nofun :), (run (.rgbToOklch c) rfl nofun :), (run (.rgbToJzazbz c) rfl :),
    (run (.rgbToJzczhz c) rfl :), (run (.rgbToHsv c) rfl nofun :), (run (.rgbToHsl c) rfl nofun :),
    (run (.rgbToSigmoid c) rfl nofun :), (run (.rgbToLalphabeta c) rfl :)⟩

/-- Settles O10: each command is the inverse template with its chain of R269 and its registers of R359. -/
theorem inverseSinglePixel : Obligations.InverseSinglePixel := by
  intro s j c f hs hf himm hcs hplain halpha hg a e
  have run : ∀ (i : Instr) {params : List Param} {k : JobCtx → Tri → Tri} {g : Nat → Nat → Bool},
      jobOf i = some (inverseOp params k g, c) → AllPositive a params →
      exec i s = .next (immDone s (inverseImm s.cfg a f (k (ctxOf s j f)))) := fun i params k g hi hp => by
    rw [exec_imm_of_positive hi hs hf himm (inverseOp_legal.mpr ⟨hcs, hplain⟩) (polAlpha_iff.mpr halpha) hg hp,
      immResult_inverse]
    rfl
  exact ⟨(run (.xyzToRgb c) rfl :), (run (.labToRgb c) rfl :), (run (.luvToRgb c) rfl :), (run (.lchToRgb c) rfl :),
    (run (.oklabToRgb c) rfl nofun :), (run (.oklchToRgb c) rfl nofun :), (run (.jzazbzToRgb c) rfl :),
    (run (.jzczhzToRgb c) rfl :), (run (.hsvToRgb c) rfl nofun :), (run (.hslToRgb c) rfl nofun :),
    (run (.sigmoidToRgb c) rfl nofun :), (run (.lalphabetaToRgb c) rfl :)⟩

end Sys2Proof.Machine
end

section
/-! PROOFS. The guards of the kernels (R248 to R268; O56): a guard's test against 0 is `isZero`, and what a guard leaves is its
own constant, or arithmetic on zeros and constants. -/

namespace Sys2Proof.Machine

/-! ### Zeros (R20) -/

theorem eq_zero_of_isZero {x : F32} (h : isZero x = true) : x = posZero ∨ x = negZero := by
  have hmag : x.toNat % 2 ^ 31 = 0 := of_decide_eq_true h
  have hlt : x.toNat < 2 ^ 32 := x.isLt
  obtain h0 | h1 : x.toNat = 0 ∨ x.toNat = 2 ^ 31 := by omega
  · exact .inl (BitVec.eq_of_toNat_eq h0)
  · exact .inr (BitVec.eq_of_toNat_eq h1)

/-- A comparison with 0 is the test for a zero of either sign. -/
theorem feq_posZero (x : F32) : feq x posZero = isZero x := by
  cases h : isZero x with
  | true => obtain rfl | rfl := eq_zero_of_isZero h <;> rfl
  | false =>
    have hne : x ≠ posZero := by rintro rfl; cases h
    simp [feq, h, hne]

theorem fle_posZero_of_isZero {x : F32} (h : isZero x = true) : fle x posZero = true := by
  obtain rfl | rfl := eq_zero_of_isZero h <;> rfl

theorem isZero_fadd {x y : F32} (hx : isZero x = true) (hy : isZero y = true) : isZero (fadd x y) = true := by
  obtain rfl | rfl := eq_zero_of_isZero hx <;> obtain rfl | rfl := eq_zero_of_isZero hy <;> rfl

theorem isZero_fsub {x y : F32} (hx : isZero x = true) (hy : isZero y = true) : isZero (fsub x y) = true := by
  obtain rfl | rfl := eq_zero_of_isZero hx <;> obtain rfl | rfl := eq_zero_of_isZero hy <;> rfl

/-- An exact zero product is a zero of the sign of the product. -/
theorem isZero_fmul {k x : F32} (hk : isFinite k = true) (h : isZero x = true) : isZero (fmul k x) = true := by
  have hmag : fMag k < 0x7F800000 := of_decide_eq_true hk
  have hk' : isNaN k = false ∧ isInf k = false := by simp [isNaN, isInf]; omega
  have hx : isNaN x = false ∧ isInf x = false ∧ fUnits x = 0 := by
    obtain rfl | rfl := eq_zero_of_isZero h <;> exact ⟨rfl, rfl, rfl⟩
  have hround : ∀ neg, isZero (roundUnits neg 0 (2 ^ 149)) = true := by decide
  have hprod : fmul k x = roundUnits (fSign k != fSign x) 0 (2 ^ 149) := by simp [fmul, hk', hx]
  exact hprod ▸ hround _

/-! ### A finite value less itself (R13) -/

theorem fInt_fneg (x : F32) : fInt (fneg x) = -fInt x := by
  unfold fInt
  rw [fUnits_eq_magUnits, fUnits_eq_magUnits, fMag_fneg, fSign_fneg]
  cases fSign x <;> simp

theorem fsub_self {x : F32} (h : isFinite x = true) : fsub x x = posZero := by
  have hmag : fMag x < 0x7F800000 := of_decide_eq_true h
  have hnan : isNaN x = false ∧ isNaN (fneg x) = false := by simp [isNaN, fMag_fneg]; omega
  have hinf : isInf x = false ∧ isInf (fneg x) = false := by simp [isInf, fMag_fneg]; omega
  have hsign : (fSign x && fSign (fneg x)) = false := by rw [fSign_fneg, Bool.and_not_self]
  simp [fsub, fadd, hnan, hinf, fInt_fneg, hsign]

theorem flt_irrefl (x : F32) : flt x x = false := by simp [flt]

/-! ### Luv (R248, R249) -/

section
variable {e : ElemChoice} {a : Regs} {v : Tri}

/-- R248: the lightness of the luminance ratio `yr`. -/
def luvLightness (e : ElemChoice) (yr : F32) : F32 :=
  if flt kLuvEps yr then fsub (fmul k116 (elemCbrt e yr)) k16 else fmul kLuvKappa yr

theorem isZero_luvLightness {yr : F32} (h : isZero yr = true) : isZero (luvLightness e yr) = true := by
  have hlow : flt kLuvEps yr = false := by obtain rfl | rfl := eq_zero_of_isZero h <;> rfl
  rw [luvLightness, if_neg (hlow ▸ Bool.false_ne_true)]
  exact isZero_fmul rfl h

theorem xyzToLuv_of_black (h : isZero (luvLightness e (fdiv v.c1 a.whiteY)) = true) : xyzToLuv e a v = zeroTri :=
  if_pos ((feq_posZero _).trans h)

/-- R248: a denominator of 0 makes both primes +0. -/
theorem xyzToLuv_of_den_zero (h : isZero (fadd (fadd v.c0 (fmul k15 v.c1)) (fmul k3 v.c2)) = true) :
    xyzToLuv e a v
      = let l := luvLightness e (fdiv v.c1 a.whiteY)
        if isZero l then zeroTri
        else ⟨l, fmul (fmul k13 l) (fsub posZero (whiteU a)), fmul (fmul k13 l) (fsub posZero (whiteV a))⟩ := by
  simp only [xyzToLuv, feq_posZero, h, if_true]
  rfl

theorem luvToXyz_of_black (h : isZero v.c0 = true) : luvToXyz a v = zeroTri := if_pos ((feq_posZero _).trans h)

/-- R249: the guard on the prime `v′`. -/
theorem luvToXyz_of_prime_zero {l u w : F32} (hl : isZero l = false)
    (h : isZero (fadd (fmul w (fdiv fOne (fmul k13 l))) (whiteV a)) = true) :
    (luvToXyz a ⟨l, u, w⟩).c0 = posZero ∧ (luvToXyz a ⟨l, u, w⟩).c2 = posZero := by
  simp [luvToXyz, feq_posZero, hl, h]

end

/-! ### The polar form (R250) and Jzazbz (R257, R258) -/

section
variable {x y : F32} (hx : isZero x = true) (hy : isZero y = true)
include hx hy

/-- R28: the chroma of two zero axes is +0 for every record. -/
theorem elemHypot_zeros (e : ElemChoice) : elemHypot e x y = posZero := by
  obtain rfl | rfl := eq_zero_of_isZero hx <;> obtain rfl | rfl := eq_zero_of_isZero hy <;> rfl

theorem toPolar_of_grey (e : ElemChoice) (l : F32) : toPolar e ⟨l, x, y⟩ = ⟨l, posZero, posZero⟩ := by
  unfold toPolar
  rw [elemHypot_zeros hx hy]
  rfl

variable {z : F32} (hz : isZero z = true)
include hz

theorem xyzToJzazbz_of_black (e : ElemChoice) (a : Regs) : xyzToJzazbz e a ⟨x, y, z⟩ = zeroTri := by
  simp [xyzToJzazbz, feq_posZero, hx, hy, hz]

theorem jzazbzToXyz_of_black (e : ElemChoice) (a : Regs) : jzazbzToXyz e a ⟨x, y, z⟩ = zeroTri := by
  simp [jzazbzToXyz, feq_posZero, hx, hy, hz]

end

/-! ### HSV and HSL (R259 to R264) -/

section
variable {g : F32}

theorem chroma_of_grey (h : isFinite g = true) : chroma ⟨g, g, g⟩ = posZero := by
  simp [chroma, maxTri, minTri, flt_irrefl, fsub_self h]

theorem hue_of_chroma_zero {v : Tri} (h : isZero (chroma v) = true) : hue v = posZero := by
  simp only [hue, feq_posZero, h, if_true]
  rfl

/-- R259, R260, R261: a finite grey has chroma 0, so hue and HSL saturation +0. -/
theorem hsv_hsl_of_grey (h : isFinite g = true) : (rgbToHsv ⟨g, g, g⟩).c0 = posZero
    ∧ (rgbToHsl ⟨g, g, g⟩).c0 = posZero ∧ (rgbToHsl ⟨g, g, g⟩).c1 = posZero := by
  have hc : chroma ⟨g, g, g⟩ = posZero := chroma_of_grey h
  have hhue : hue ⟨g, g, g⟩ = posZero := hue_of_chroma_zero (hc ▸ rfl)
  refine ⟨hhue, hhue, ?_⟩
  unfold rgbToHsl
  rw [hc]
  rfl

end

theorem rgbToHsv_of_max_zero {v : Tri} (h : isZero (maxTri v) = true) : (rgbToHsv v).c1 = posZero :=
  if_pos ((feq_posZero _).trans h)

/-- R261: `d`, whose zero makes the saturation +0 whatever the chroma. -/
theorem rgbToHsl_of_d_zero {v : Tri}
    (h : isZero (fsub fOne (fabs (fsub (fmul fTwo (fmul (fadd (maxTri v) (minTri v)) fHalf)) fOne))) = true) :
    (rgbToHsl v).c1 = posZero := by
  simp [rgbToHsl, feq_posZero, h]

/-- R262: a hue that is not finite reduces to a NaN. -/
theorem hueReduce_of_not_finite {h : F32} (hh : isFinite h = false) : hueReduce h = canonNaN := by
  have hmag : 0x7F800000 ≤ fMag h := Nat.not_lt.mp (of_decide_eq_false hh)
  have hne : (isNaN h || isInf h) = true := by simp [isNaN, isInf]; omega
  rw [hueReduce, if_pos hne]

/-- R262: the sector of a NaN hue is all zeros. -/
theorem hueSector_nan (c x : F32) : hueSector canonNaN c x = zeroTri := rfl

/-! ### Sigmoidal (R266) -/

theorem sigInv_of_ratio {e : ElemChoice} {y : F32} (h : fle (fdiv y (fsub fOne y)) posZero = true) :
    sigInv e y = posZero := by
  simp [sigInv, h]

theorem sigInv_zero (e : ElemChoice) {y : F32} (h : isZero y = true) : sigInv e y = posZero := by
  refine sigInv_of_ratio ?_
  obtain rfl | rfl := eq_zero_of_isZero h <;> rfl

/-- R266: at 1 the denominator is 0. -/
theorem sigInv_one (e : ElemChoice) : sigInv e fOne = posZero := rfl

/-! ### l-alpha-beta (R267, R268) -/

section
variable {e : ElemChoice}

theorem mapTri_eq_zeroTri {f : F32 → F32} {v : Tri} (h : f v.c0 = posZero ∧ f v.c1 = posZero ∧ f v.c2 = posZero) :
    mapTri f v = zeroTri := by
  obtain ⟨h0, h1, h2⟩ := h
  rw [mapTri, h0, h1, h2, zeroTri]

theorem lg_of_not_positive {t : F32} (h : fle t posZero = true) : lg e t = posZero := if_pos h

theorem ex_zero {t : F32} (h : isZero t = true) : ex e t = posZero := if_pos ((feq_posZero t).trans h)

/-- R267: three logarithms of +0 come out as +0 on every axis. -/
theorem xyzToLalphabeta_of_lms {a : Regs} {v : Tri} (h : mapTri (lg e) (matMul a.bank.labLms v) = zeroTri) :
    xyzToLalphabeta e a v = zeroTri := by
  unfold xyzToLalphabeta
  rw [h]
  decide

theorem lalphabetaToXyz_of_lms {a : Regs} {v : Tri}
    (h0 : isZero (fadd (fadd (fmul kSq33 v.c0) (fmul kSq66 v.c1)) (fmul kSq22 v.c2)) = true)
    (h1 : isZero (fsub (fadd (fmul kSq33 v.c0) (fmul kSq66 v.c1)) (fmul kSq22 v.c2)) = true)
    (h2 : isZero (fsub (fmul kSq33 v.c0) (fmul kSq63 v.c1)) = true) :
    lalphabetaToXyz e a v = matMul a.bank.labLmsInv zeroTri :=
  congrArg (matMul a.bank.labLmsInv) (mapTri_eq_zeroTri ⟨ex_zero h0, ex_zero h1, ex_zero h2⟩)

theorem lalphabetaToXyz_zeros {a : Regs} {x y z : F32} (hx : isZero x = true) (hy : isZero y = true)
    (hz : isZero z = true) : lalphabetaToXyz e a ⟨x, y, z⟩ = matMul a.bank.labLmsInv zeroTri := by
  have ht : isZero (fadd (fmul kSq33 x) (fmul kSq66 y)) = true := isZero_fadd (isZero_fmul rfl hx) (isZero_fmul rfl hy)
  have h3 : isZero (fmul kSq22 z) = true := isZero_fmul rfl hz
  exact lalphabetaToXyz_of_lms (isZero_fadd ht h3) (isZero_fsub ht h3)
    (isZero_fsub (isZero_fmul rfl hx) (isZero_fmul rfl hy))

end

/-- Settles O56, guard by guard. -/
theorem degenerateInputsAreGuarded : Obligations.DegenerateInputsAreGuarded := by
  intro e a x y z hx hy hz
  refine ⟨fun u v => luvToXyz_of_black hx, fun v => xyzToLuv_of_den_zero,
    fun v h => xyzToLuv_of_black (isZero_luvLightness h), fun v => xyzToLuv_of_black,
    fun l u v => luvToXyz_of_prime_zero,
    toPolar_of_grey hx hy e, xyzToJzazbz_of_black hx hy hz e a, jzazbzToXyz_of_black hx hy hz e a, sigInv_zero e hx,
    sigInv_one e, fun w => sigInv_of_ratio, fun g => hsv_hsl_of_grey, fun v => rgbToHsv_of_max_zero,
    fun v => rgbToHsl_of_d_zero, fun h s v hh => ⟨?_, ?_⟩, fun v h => ?_, lalphabetaToXyz_zeros hx hy hz, fun v h => ?_⟩
  · rw [hsvToRgb, hueReduce_of_not_finite hh, hueSector_nan]
    rfl
  · rw [hslToRgb, hueReduce_of_not_finite hh, hueSector_nan]
    rfl
  · simp only [List.forall_mem_cons] at h
    obtain ⟨h0, h1, h2, -⟩ := h
    exact xyzToLalphabeta_of_lms
      (mapTri_eq_zeroTri ⟨lg_of_not_positive h0, lg_of_not_positive h1, lg_of_not_positive h2⟩)
  · simp only [List.forall_mem_cons] at h
    obtain ⟨h0, h1, h2, -⟩ := h
    exact lalphabetaToXyz_of_lms h0 h1 h2

end Sys2Proof.Machine
end

section
/-! PROOFS. The float registers a command checks (R359, R513; O22, O23), and NOP (R331; O7). -/

namespace Sys2Proof.Machine

/-! ### The table of R359 -/

/-- The registers of the table of R359, in increasing offset order. -/
def tableOrder : List Param := [.xyzScale, .jzLum, .whiteX, .whiteY, .whiteZ]

theorem paramTable_sublist (i : Instr) : (paramTable i).Sublist tableOrder := by
  cases i <;> exact List.isSublist_iff_sublist.mp rfl

/-- A command's template names the registers of its row of the table. -/
theorem params_eq_paramTable {i : Instr} {op : JobOp} {c : Cmd} (h : jobOf i = some (op, c)) :
    op.params = paramTable i := by
  cases i <;> cases h <;> rfl

/-- R513: GAMMA comes before the registers of the table, and these are in their order. -/
theorem checkedParams_sublist {i : Instr} {op : JobOp} {c : Cmd} (h : jobOf i = some (op, c)) (x : JobCtx) :
    (checkedParams op x).Sublist (.gamma :: tableOrder) := by
  have hgamma : (if x.f.tf = .power then [Param.gamma] else []).Sublist [.gamma] := by split <;> simp
  rw [checkedParams, params_eq_paramTable h]
  exact hgamma.append (paramTable_sublist i)

/-- Settles O22: each template's registers are its row, and every row keeps the order of the whole table. -/
theorem checkedRegistersTable : Obligations.CheckedRegistersTable := by
  intro i op c x h
  have hordered : (Param.gamma :: tableOrder).Pairwise fun p q => p.offset < q.offset := by decide
  exact ⟨by rw [checkedParams, params_eq_paramTable h], hordered.sublist (checkedParams_sublist h x)⟩

/-! ### PARAM (R513) -/

/-- The first listed register that is not finite and > 0 is the one reported. -/
theorem paramErr_first {a : Regs} {p : Param} {post : List Param} (hp : isPosFinite (p.value a) = false) :
    ∀ {pre : List Param}, (∀ q ∈ pre, isPosFinite (q.value a) = true) →
      paramErr a (pre ++ p :: post) = some ⟨.param, BitVec.ofNat 32 p.offset, p.value a⟩
  | [], _ => if_neg (Bool.eq_false_iff.mp hp)
  | q :: pre, hpre => by
    obtain ⟨hq, hrest⟩ := List.forall_mem_cons.mp hpre
    rw [List.cons_append, paramErr, if_pos hq]
    exact paramErr_first hp hrest

/-- R511: with legal fields, a bad register is the first check to fail, whatever the AMODE. -/
theorem firstErr_of_bad_param {op : JobOp} {x : JobCtx} {e : CheckErr} (hl : op.legal x = true)
    (he : paramErr x.args (checkedParams op x) = some e) : firstErr op x = some e := by
  simp [firstErr, hl, he]

/-- Settles O23: the registers before `p` are passed over. -/
theorem badRegisterIsParam : Obligations.BadRegisterIsParam := by
  intro i op c f s j hi hs hf x hl pre p post hsplit hpre hp
  have hbad : paramErr x.args (checkedParams op x) = some ⟨.param, BitVec.ofNat 32 p.offset, p.value j.args⟩ := by
    rw [hsplit]
    exact paramErr_first hp hpre
  exact exec_of_firstErr hi hs hf (firstErr_of_bad_param hl hbad)

/-! ### NOP -/

/-- Settles O7: the completion alone, which a word with OP 0 comes to whatever its other bits. -/
theorem nopCompletes : Obligations.NopCompletes := by
  refine ⟨fun s j hj hi => ?_, fun s j hs hop => ?_, fun s => State.settled_of_no_race⟩
  · exact execNop_alone (hj ▸ Option.some_ne_none j) hi
  · rw [step_of_decode hs (decode_of_op_zero hop)]
    exact execNop_alone (hs.running ▸ Option.some_ne_none j) hs.alone

end Sys2Proof.Machine
end

section
/-! PROOFS. The fourteen float kernels on a single pixel (R358; O11), by one rule for their template. -/

namespace Sys2Proof.Machine

/-- R358: the result of a float kernel on an IMM pixel. -/
theorem immResult_kernel {params : List Param} {k : JobCtx → Tri → Tri} {g : Nat → Nat → Bool} {x : JobCtx}
    (h : CsSide x.f.dl x.f.dt) : immResult (kernelOp params k g) x = kernelImm x.args x.f (k x) := by
  refine (immResult_named rfl ?_).trans (namedQuad_csSide h _ _ _ _)
  rw [← alphaOut_named (op := kernelOp params k g) rfl, immRgb_eq_slots (op := kernelOp params k g) rfl]
  rfl

/-- Settles O11: each command is the float-kernel template with its kernel and its registers of R359. -/
theorem floatKernelSinglePixel : Obligations.FloatKernelSinglePixel := by
  intro s j c f hs hf himm hsrc hdst htf hplain halpha a e
  have hg : GammaOk a f.tf := fun hpow => absurd (htf.symm.trans hpow) (by decide)
  have run : ∀ (i : Instr) {params : List Param} {k : JobCtx → Tri → Tri} {g : Nat → Nat → Bool},
      jobOf i = some (kernelOp params k g, c) → AllPositive a params →
      exec i s = .next (immDone s (kernelImm a f (k (ctxOf s j f)))) := fun i params k g hi hp => by
    rw [exec_imm_of_positive hi hs hf himm (kernelOp_legal.mpr ⟨hsrc, hdst, htf, hplain⟩)
      (polAlpha_iff.mpr halpha) hg hp, immResult_kernel hdst]
    rfl
  exact ⟨(run (.xyzToLab c) rfl :), (run (.labToXyz c) rfl :), (run (.xyzToLuv c) rfl :), (run (.luvToXyz c) rfl :),
    (run (.luvToLch c) rfl nofun :), (run (.lchToLuv c) rfl nofun :), (run (.oklabToOklch c) rfl nofun :),
    (run (.oklchToOklab c) rfl nofun :), (run (.xyzToJzazbz c) rfl :), (run (.jzazbzToXyz c) rfl :),
    (run (.jzazbzToJzczhz c) rfl nofun :), (run (.jzczhzToJzazbz c) rfl nofun :),
    (run (.xyzToLalphabeta c) rfl nofun :), (run (.lalphabetaToXyz c) rfl nofun :)⟩

end Sys2Proof.Machine
end

section
/-! PROOFS. The unpack commands on a single pixel (R406 to R413; O14, O15): the fields of a packed word as quotients and
remainders, and the result by named channel with the alpha that the AMODE asks for. -/

namespace Sys2Proof.Machine

/-! ### The fields of a packed word (R406, R409) -/

theorem field_toNat (w : Word) (lo : Nat) {len : Nat} (h : len ≤ 32) : (field w lo len).toNat = bits w lo len := by
  have hmask : 2 ^ len - 1 < 2 ^ 32 :=
    (Nat.sub_one_lt_of_lt (Nat.two_pow_pos len)).trans_le (Nat.pow_le_pow_right (by decide) h)
  rw [field, BitVec.toNat_and, toNat_shiftRight, BitVec.toNat_ofNat, Nat.mod_eq_of_lt hmask, Nat.and_two_pow_sub_one_eq_mod,
    bits]

/-- The 565 word of an IMM job is the low 16 bits of PIX_IN0, which red, green and blue share out. -/
theorem fields565_toNat (w : Word) :
    (red5 (lowBytes 2 w)).toNat = w.toNat % 2 ^ 16 / 2 ^ 11
      ∧ (green6 (lowBytes 2 w)).toNat = w.toNat % 2 ^ 16 / 2 ^ 5 % 2 ^ 6
      ∧ (blue5 (lowBytes 2 w)).toNat = w.toNat % 2 ^ 16 % 2 ^ 5 := by
  have hlow : (lowBytes 2 w).toNat = w.toNat % 2 ^ 16 := by
    rw [lowBytes, BitVec.toNat_ofNat]
    omega
  simp only [red5, green6, blue5, field_toNat _ _ (show 5 ≤ 32 by decide), field_toNat _ _ (show 6 ≤ 32 by decide),
    bits, hlow, Nat.pow_zero, Nat.div_one, and_true]
  exact Nat.mod_eq_of_lt (by omega)

/-- The 1010102 word of an IMM job is the whole of PIX_IN0. -/
theorem fields1010102_toNat (w : Word) :
    (red10 (lowBytes 4 w)).toNat = w.toNat % 2 ^ 10
      ∧ (green10 (lowBytes 4 w)).toNat = w.toNat / 2 ^ 10 % 2 ^ 10
      ∧ (blue10 (lowBytes 4 w)).toNat = w.toNat / 2 ^ 20 % 2 ^ 10
      ∧ (alpha2 (lowBytes 4 w)).toNat = w.toNat / 2 ^ 30 := by
  have hw := w.isLt
  have hlow : (lowBytes 4 w).toNat = w.toNat := by
    rw [lowBytes, BitVec.toNat_ofNat]
    omega
  simp only [red10, green10, blue10, alpha2, field_toNat _ _ (show 10 ≤ 32 by decide),
    field_toNat _ _ (show 2 ≤ 32 by decide), bits, hlow, Nat.pow_zero, Nat.div_one, true_and]
  exact Nat.mod_eq_of_lt (by omega)

/-! ### Shifted fields (R408, R412) -/

theorem shiftLeft_eq_ofNat (w : Word) (n : Nat) : w <<< n = BitVec.ofNat 32 (w.toNat * 2 ^ n) := by
  apply BitVec.eq_of_toNat_eq
  rw [BitVec.toNat_shiftLeft, Nat.shiftLeft_eq, BitVec.toNat_ofNat]

theorem shiftRight_eq_ofNat (w : Word) (n : Nat) : w >>> n = BitVec.ofNat 32 (w.toNat / 2 ^ n) := by
  rw [← toNat_shiftRight, BitVec.ofNat_toNat, BitVec.setWidth_eq]

theorem shift565_eq {t : ElemType} (n : Nat) (w : Word) :
    shift565 t n w = BitVec.ofNat 32 (w.toNat * 2 ^ ((if t = .u8 then 8 else 16) - n)) := by
  cases t <;> exact shiftLeft_eq_ofNat w _

theorem shift10_eq {t : ElemType} (w : Word) :
    shift10 t w = BitVec.ofNat 32 (if t = .u8 then w.toNat / 2 ^ 2 else w.toNat * 2 ^ 6) := by
  cases t
  case u8 => exact shiftRight_eq_ofNat w 2
  all_goals exact shiftLeft_eq_ofNat w 6

theorem shift2_eq {t : ElemType} (w : Word) :
    shift2 t w = BitVec.ofNat 32 (w.toNat * (if t = .u8 then 2 ^ 6 else 2 ^ 14)) := by
  cases t <;> exact shiftLeft_eq_ofNat w _

/-! ### The result by named channel -/

/-- The alpha register of a named result, `p` being the value under PASS: 0 where there is no alpha (R72, R327). -/
def alphaOf (x : JobCtx) (p : Word) : Word := (alphaOut x p).headD 0#32

theorem alphaOf_eq (x : JobCtx) (p : Word) :
    alphaOf x p = if x.f.am = .pass then p else if x.f.am = .const then rawAlpha x.f.dt x.args else 0#32 := by
  unfold alphaOf alphaOut
  cases x.f.am <;> rfl

/-- Where a command writes by name, its colours and its alpha go to the registers of their channels (R322, R323). -/
theorem immResult_alphaOut {op : JobOp} {x : JobCtx} {r g b p : Word} (hd : op.dstElems x = polDsts x)
    (hb : op.body x (immSlot op x) = [r, g, b] ++ alphaOut x p) :
    immResult op x = namedQuad x.f.dl r g b (alphaOf x p) := by
  rw [immResult_eq, hd, hb, polDsts, alphaOf, alphaOut]
  cases x.f.am <;> cases x.f.dl <;> rfl

/-- R408, R410: the result of a 565 unpack that treats each field by itself. -/
theorem immResult_unpack565 (types : ElemType → Bool) (red green blue : ElemType → Word → Word) (x : JobCtx) :
    let w := lowBytes 2 x.args.pixIn.p0
    immResult (unpack565Op types fun t w => [red t (red5 w), green t (green6 w), blue t (blue5 w)]) x
      = namedQuad x.f.dl (red x.f.dt (red5 w)) (green x.f.dt (green6 w)) (blue x.f.dt (blue5 w)) (alphaOf x 0#32) :=
  immResult_alphaOut rfl rfl

/-- R412, R413: the result of a 1010102 unpack. -/
theorem immResult_unpack1010102 (types : ElemType → Bool) (colour alpha : ElemType → Word → Word) (x : JobCtx) :
    let w := lowBytes 4 x.args.pixIn.p0
    immResult (unpack1010102Op types colour alpha) x
      = namedQuad x.f.dl (colour x.f.dt (red10 w)) (colour x.f.dt (green10 w)) (colour x.f.dt (blue10 w))
          (alphaOf x (alpha x.f.dt (alpha2 w))) :=
  immResult_alphaOut rfl rfl

/-! ### The commands -/

/-- Settles O14: the checks pass, and each field of the word is shifted or scaled. -/
theorem unpack565SinglePixel : Obligations.Unpack565SinglePixel := by
  intro s j c f hs hf himm hsl hst htf hplain ham w al up mul
  obtain ⟨hred, hgreen, hblue⟩ := fields565_toNat (ctxOf s j f).args.pixIn.p0
  have hal : alphaOf (ctxOf s j f) 0#32 = al := by
    rw [alphaOf_eq, show (ctxOf s j f).f.am = _ from ham]
    simp only [al]
    cases hasAlpha f.dl <;> rfl
  have hok : ∀ {types : ElemType → Bool} (colours : ElemType → Word → List Word), types f.dt = true →
      firstErr (unpack565Op types colours) (ctxOf s j f) = none := fun colours ht =>
    firstErr_imm (unpack565Op_legal.mpr ⟨hsl, hst, ht, htf, hplain⟩) (checkedParams_nil htf rfl) (decide_eq_true ham)
      himm
  refine ⟨fun hdt => ?_, ?_⟩
  · have hresult : immResult unpack565ShiftedOp (ctxOf s j f) = _ :=
      immResult_unpack565 _ (shift565 · 5) (shift565 · 6) (shift565 · 5) (ctxOf s j f)
    rw [exec_imm (i := .unpack565Shifted c) rfl hs hf himm (hok _ (decide_eq_true hdt)), hresult, hal, shift565_eq,
      shift565_eq, shift565_eq, hred, hgreen, hblue]
    rfl
  · have hresult : immResult unpack565ScaledOp (ctxOf s j f) = _ :=
      immResult_unpack565 _ (scaled · k31Inv) (scaled · k63Inv) (scaled · k31Inv) (ctxOf s j f)
    rw [exec_imm (i := .unpack565Scaled c) rfl hs hf himm (hok _ rfl), hresult, hal, scaled, scaled, scaled, hred, hgreen,
      hblue]
    rfl

/-- Settles O15: the checks pass, each field of the word is shifted or scaled, and A2 is the alpha under PASS alone. -/
theorem unpack1010102SinglePixel : Obligations.Unpack1010102SinglePixel := by
  intro s j c f hs hf himm hsl hst htf hplain ham w r g b al ten mul
  obtain ⟨hred, hgreen, hblue, halpha⟩ := fields1010102_toNat (ctxOf s j f).args.pixIn.p0
  have hok : ∀ {types : ElemType → Bool} (colour alpha : ElemType → Word → Word), types f.dt = true →
      firstErr (unpack1010102Op types colour alpha) (ctxOf s j f) = none := fun colour alpha ht =>
    firstErr_imm (unpack1010102Op_legal.mpr ⟨hsl, hst, ht, htf, hplain⟩) (checkedParams_nil htf rfl)
      (unpack1010102Op_alpha.mpr ham) himm
  refine ⟨fun hdt => ?_, ?_⟩
  · have hresult : immResult unpack1010102ShiftedOp (ctxOf s j f) = _ := immResult_unpack1010102 _ shift10 shift2 _
    rw [exec_imm (i := .unpack1010102Shifted c) rfl hs hf himm (hok _ _ (decide_eq_true hdt)), hresult, alphaOf_eq,
      shift10_eq, shift10_eq, shift10_eq, shift2_eq, hred, hgreen, hblue, halpha]
    rfl
  · have hresult : immResult unpack1010102ScaledOp (ctxOf s j f) = _ :=
      immResult_unpack1010102 _ (scaled · k1023Inv) (scaled · k3Inv) _
    rw [exec_imm (i := .unpack1010102Scaled c) rfl hs hf himm (hok _ _ rfl), hresult, alphaOf_eq, scaled, scaled, scaled,
      scaled, hred, hgreen, hblue, halpha]
    rfl

end Sys2Proof.Machine
end

section
/-! PROOFS. The compare commands (R450 to R453): one pixel of the shared template (O17), and the results with the operands
exchanged (R456; O54). -/

namespace Sys2Proof.Machine

/-! ### One pixel of the compare template (R450, R454) -/

/-- The three f32 elements from address `p` on. -/
def triAt (m : Memory) (p : Nat) : Tri := ⟨m.read ⟨p, 4⟩, m.read ⟨p + 4, 4⟩, m.read ⟨p + 8, 4⟩⟩

/-- R450: the coordinates of the first pixel are the first three elements of each source. -/
theorem memElems_compare (dt : ElemType) (spaces : EqSpace → Bool) (g : JobCtx → Tri → Tri → Word) (x : JobCtx)
    (m : Memory) :
    rawIn (memElems (compareOp dt spaces g) x m 0 0) = triAt m (coordS x).base
      ∧ rawIn2 (memElems (compareOp dt spaces g) x m 0 0) = triAt m (coordS2 x).base := by
  have hread : ∀ (b : BufArg) (k : Nat), m.read ((chanRef b k).access 0 0) = m.read ⟨b.base + k * b.unit, b.unit⟩ :=
    fun b k => by rw [ElemRef.access, chanRef_addr_zero, chanRef_buf]
  have htri : ∀ b : BufArg, b.unit = 4 → (⟨m.read ((chanRef b 0).access 0 0), m.read ((chanRef b 1).access 0 0),
      m.read ((chanRef b 2).access 0 0)⟩ : Tri) = triAt m b.base := fun b hb => by
    simp only [hread, hb]
    rfl
  exact ⟨htri (coordS x) rfl, htri (coordS2 x) rfl⟩

/-- R450: the one store of the first pixel of a compare job. -/
theorem pixelStores_compare (dt : ElemType) (spaces : EqSpace → Bool) (g : JobCtx → Tri → Tri → Word) (x : JobCtx)
    (m : Memory) :
    pixelStores (compareOp dt spaces g) x 0 0 (memElems (compareOp dt spaces g) x m 0 0)
      = [⟨pairAddr x.cfg.addrW x.args.dstLo x.args.dstHi, elemSize dt,
          g x (triAt m (coordS x).base) (triAt m (coordS2 x).base)⟩] := by
  obtain ⟨hsrc, hsrc2⟩ := memElems_compare dt spaces g x m
  have hdst := wholeRef_addr_zero (bufD x (elemSize dt) (elemSize dt))
  rw [← hsrc, ← hsrc2]
  exact congrArg (fun p => [(⟨p, elemSize dt, _⟩ : Store)]) hdst

/-- A legal 1x1 compare job whose address checks pass ends with the result of its two pixels at DST. -/
theorem exec_compare_onePixel {i : Instr} {dt : ElemType} {spaces : EqSpace → Bool} {g : JobCtx → Tri → Tri → Word}
    {c : Cmd} {f : Fields} {s : State} {j : Job} (hi : jobOf i = some (compareOp dt spaces g, c)) (hs : Started s j)
    (hf : resolve c = some f) (himm : f.imm = false) (htape : s.env.tape = []) (hfree : FaultFree s.cfg)
    (hw : j.args.width = 1#32) (hh : j.args.height = 1#32)
    (hlegal : (compareOp dt spaces g).legal (ctxOf s j f) = true) (htf : f.tf = .none) (ham : f.am = .none)
    (haddr : addressErr (compareOp dt spaces g) (ctxOf s j f) = none) :
    exec i s = .next (State.complete (State.settled (s.storeElem
      ⟨pairAddr s.cfg.addrW j.args.dstLo j.args.dstHi, elemSize dt,
        g (ctxOf s j f) (triAt s.mem (pairAddr s.cfg.addrW j.args.srcLo j.args.srcHi))
          (triAt s.mem (pairAddr s.cfg.addrW j.args.src2Lo j.args.src2Hi))⟩))) := by
  have hx : addressed (ctxOf s j f) = true := by simp [addressed, ctxOf, himm, hw, hh]
  have hparams : ∀ p ∈ checkedParams (compareOp dt spaces g) (ctxOf s j f),
      isPosFinite (p.value (ctxOf s j f).args) = true := by
    rw [checkedParams_nil htf rfl]
    exact nofun
  have hok : firstErr (compareOp dt spaces g) (ctxOf s j f) = none :=
    (firstErr_eq_addressErr hlegal hparams (decide_eq_true ham) hx).trans haddr
  rw [onePixelBufferJob i _ c f s j hi hs hf himm htape hfree hw hh hok, pixelStores_compare,
    lutAfter_of_not_linearizes rfl]
  rfl

/-- Settles O17: each command is the compare template with its formula and its destination type. -/
theorem compareOnePixelJob : Obligations.CompareOnePixelJob := by
  intro s j c f hs htape hfree hcmp hw hh hf himm hside hdl htf hpos ham at3 a b dst d0 d1 d2
  have run : ∀ (i : Instr) {dt : ElemType} {spaces : EqSpace → Bool} {g : JobCtx → Tri → Tri → Word},
      jobOf i = some (compareOp dt spaces g, c) → f.dt = dt → spaces f.sp = true →
      addressErr (compareOp dt spaces g) (ctxOf s j f) = none →
      exec i s = .next (State.complete (State.settled (s.storeElem ⟨dst, elemSize dt, g (ctxOf s j f) a b⟩))) :=
    fun i {dt spaces g} hi hdt hsp haddr =>
      exec_compare_onePixel hi hs hf himm htape hfree hw hh
        (compareOp_legal.mpr ⟨hcmp, hside, hdl, hdt, htf, ⟨hpos, hsp⟩, himm⟩) htf ham haddr
  exact ⟨fun hdt hsp => (run (.distEuclid c) rfl hdt (decide_eq_true hsp) :),
    fun hdt hsp => (run (.distTaxicab c) rfl hdt (decide_eq_true hsp) :), fun hdt => (run (.cmpEq c) rfl hdt rfl :)⟩

/-! ### The magnitude of a sum and of a difference (R13, R20) -/

theorem fMag_roundUnits (neg : Bool) (n d : Nat) : fMag (roundUnits neg n d) = roundMag n d := by
  have hle : roundMag n d ≤ 0x7F800000 := Nat.min_le_right _ _
  rw [fMag, roundUnits, fPack, BitVec.toNat_ofNat]
  cases neg <;> simp only [Bool.false_eq_true, if_true, if_false] <;> omega

/-- R20: the magnitude of a sum, whatever the sign that an exact zero takes. -/
theorem fMag_fadd (a b : F32) : fMag (fadd a b)
    = if isNaN a || isNaN b || isInf a && (isInf b && (fSign a != fSign b)) then fMag canonNaN
      else if isInf a || isInf b then 0x7F800000 else roundMag (fInt a + fInt b).natAbs 1 := by
  unfold fadd
  cases hnan : isNaN a || isNaN b
  case true => rfl
  cases ha : isInf a
  case true =>
    cases isInf b && (fSign a != fSign b)
    case true => rfl
    case false => exact of_decide_eq_true ha
  cases hb : isInf b
  case true => exact of_decide_eq_true hb
  by_cases hsum : fInt a + fInt b = 0
  · have hzero : roundMag 0 1 = 0 := by decide
    have hmag : ∀ neg : Bool, fMag (if neg then negZero else posZero) = 0 := by decide
    simpa [hsum, hzero] using hmag (fSign a && fSign b)
  · simp [hsum, fMag_roundUnits]

theorem isNaN_fneg (x : F32) : isNaN (fneg x) = isNaN x := by rw [isNaN, isNaN, fMag_fneg]

theorem isInf_fneg (x : F32) : isInf (fneg x) = isInf x := by rw [isInf, isInf, fMag_fneg]

/-- Exchanging the operands of a difference changes its sign at most. -/
theorem fMag_fsub_comm (a b : F32) : fMag (fsub a b) = fMag (fsub b a) := by
  have hnan : (isNaN a || isNaN b) = (isNaN b || isNaN a) := Bool.or_comm _ _
  have hinf : (isInf a || isInf b) = (isInf b || isInf a) := Bool.or_comm _ _
  have hclash : (isInf a && (isInf b && (fSign a != !fSign b)))
      = (isInf b && (isInf a && (fSign b != !fSign a))) := by
    rw [Bool.and_left_comm, Bool.bne_not, Bool.bne_not, bne_comm]
  have hunits : (fInt a + -fInt b).natAbs = (fInt b + -fInt a).natAbs := by omega
  simp only [fsub, fMag_fadd, isNaN_fneg, isInf_fneg, fSign_fneg, fInt_fneg, hnan, hinf, hclash, hunits]

/-! ### What depends on a magnitude alone (R13, R21) -/

theorem fabs_eq_ofNat (x : F32) : fabs x = BitVec.ofNat 32 (fMag x) := by
  apply BitVec.eq_of_toNat_eq
  have hmask : (fabs x).toNat = fMag x := by
    rw [fabs, BitVec.toNat_and, show (0x7FFFFFFF#32).toNat = 2 ^ 31 - 1 from rfl, Nat.and_two_pow_sub_one_eq_mod, fMag]
  rw [hmask, BitVec.toNat_ofNat, Nat.mod_eq_of_lt (by unfold fMag; omega)]

theorem fabs_congr {x y : F32} (h : fMag x = fMag y) : fabs x = fabs y := by
  rw [fabs_eq_ofNat, fabs_eq_ofNat, h]

/-- A square does not show the sign of its operand. -/
theorem fmul_self_congr {x y : F32} (h : fMag x = fMag y) : fmul x x = fmul y y := by
  have hunits : fUnits x = fUnits y := by rw [fUnits_eq_magUnits, fUnits_eq_magUnits, h]
  simp only [fmul, isNaN, isInf, isZero, h, hunits, bne_self_eq_false]

theorem fabs_fsub_comm (a b : F32) : fabs (fsub a b) = fabs (fsub b a) := fabs_congr (fMag_fsub_comm a b)

theorem fmul_self_fsub_comm (a b : F32) : fmul (fsub a b) (fsub a b) = fmul (fsub b a) (fsub b a) :=
  fmul_self_congr (fMag_fsub_comm a b)

/-! ### Symmetry (R456) -/

/-- R451. -/
theorem euclid_comm (a b : Tri) : euclid a b = euclid b a := by
  simp only [euclid, subTri, fmul_self_fsub_comm a.c0, fmul_self_fsub_comm a.c1, fmul_self_fsub_comm a.c2]

/-- R452. -/
theorem taxicab_comm (a b : Tri) : taxicab a b = taxicab b a := by
  simp only [taxicab, subTri, fabs_fsub_comm a.c0, fabs_fsub_comm a.c1, fabs_fsub_comm a.c2]

theorem feq_comm (x y : F32) : feq x y = feq y x := by
  simp only [feq, Bool.and_comm (!isNaN x), Bool.and_comm (isZero x), eq_comm (a := x)]

theorem feq_self {x : F32} (h : isNaN x = false) : feq x x = true := by simp [feq, h]

theorem isZero_eq_of_feq {x y : F32} (h : feq x y = true) : isZero x = isZero y := by
  obtain ⟨-, rfl | ⟨hx, hy⟩⟩ : (isNaN x = false ∧ isNaN y = false) ∧ (x = y ∨ isZero x = true ∧ isZero y = true) := by
    simpa [feq] using h
  · rfl
  · rw [hx, hy]

/-- R453: LCH asks for a zero chroma of its first operand alone, beside equal chromas. -/
theorem equalIn_comm (sp : EqSpace) (a b : Tri) : equalIn sp a b = equalIn sp b a := by
  have hblack : (feq a.c0 posZero && feq b.c0 posZero) = (feq b.c0 posZero && feq a.c0 posZero) := Bool.and_comm _ _
  have hchroma : (feq a.c1 b.c1 && (feq a.c1 posZero || feq a.c2 b.c2))
      = (feq a.c1 b.c1 && (feq b.c1 posZero || feq a.c2 b.c2)) := by
    cases h : feq a.c1 b.c1
    case false => rfl
    case true => rw [feq_posZero, feq_posZero, isZero_eq_of_feq h]
  cases sp
  case standard => simp only [equalIn, feq_comm b.c0 a.c0, feq_comm b.c1 a.c1, feq_comm b.c2 a.c2]
  case luv => simp only [equalIn, hblack, feq_comm b.c0 a.c0, feq_comm b.c1 a.c1, feq_comm b.c2 a.c2]
  case lch => simp only [equalIn, hblack, Bool.and_assoc, hchroma, feq_comm b.c0 a.c0, feq_comm b.c1 a.c1,
      feq_comm b.c2 a.c2]

/-- R453: every rule accepts a triple of equal channels. -/
theorem equalIn_self (sp : EqSpace) {a : Tri} (h0 : isNaN a.c0 = false) (h1 : isNaN a.c1 = false)
    (h2 : isNaN a.c2 = false) : equalIn sp a a = true := by
  cases sp <;> simp [equalIn, feq_self, h0, h1, h2]

/-- Settles O54: the differences change their sign alone, and each rule of equality is symmetric. -/
theorem distancesAreSymmetric : Obligations.DistancesAreSymmetric := fun a b =>
  ⟨euclid_comm a b, taxicab_comm a b, fun sp => ⟨equalIn_comm sp a b, equalIn_self sp⟩⟩

end Sys2Proof.Machine
end

section
/-! PROOFS. Errors and endings (R501, R510 to R524, R539): START under BUSY or ERR (O47), acknowledgement (O48), the job
with no pixels (O20), and the precision of the check errors (O34). -/

namespace Sys2Proof.Machine

/-! ### START (R501) -/

/-- Settles O47: START is refused or it is acceptance, and a CTRL write comes to it in the order of R49. -/
theorem startIsRefusedWhileBusyOrErr : Obligations.StartIsRefusedWhileBusyOrErr := by
  refine ⟨fun s h => ?refused, fun s hj he => ?accepted, fun s v h0 h1 => ?started, fun s v h0 => ?noStart⟩
  case refused =>
    rcases s.start_cases with ⟨hj, he, -⟩ | ⟨-, hstart⟩
    · exact absurd h (by simp [hj, he])
    · exact hstart
  case accepted =>
    rw [State.start_eq_accept hj he]
    exact ⟨s.accept.env, rfl, rfl⟩
  case started =>
    intro u
    change s.writeCtrl v = _
    simp only [State.writeCtrl, h0, h1, if_true, Bool.false_eq_true, if_false, u]
  case noStart =>
    obtain ⟨hreset, horder, -⟩ := ctrlWriteOrder s v
    cases h1 : v.getLsbD 1 with
    | true =>
      obtain ⟨hjob, -⟩ := s.resetBlock_registers
      rw [hreset h1, hjob, if_pos rfl]
    | false =>
      obtain ⟨-, -, -, -, hkeep, -⟩ := horder h1
      exact (hkeep h0).1

/-! ### Acknowledgement (R524) -/

/-- While a job runs, the invariant leaves no bit to acknowledge. -/
theorem State.acknowledge_of_busy {s : State} (h : Inv s) (hj : s.job ≠ none) (v : Word) : s.acknowledge v = s := by
  cases s
  obtain ⟨rfl, rfl⟩ := h.busyClear hj
  obtain ⟨rfl, rfl⟩ := h.errInfo rfl
  simp [State.acknowledge_spec]

/-- Settles O48: a STATUS write is acknowledgement. -/
theorem acknowledgeClearsBits : Obligations.AcknowledgeClearsBits := by
  intro s v
  refine ⟨?_, fun hinv hj => State.acknowledge_of_busy hinv hj v⟩
  change s.acknowledge v = _
  rw [State.acknowledge_spec]
  cases v.getLsbD 1 <;> simp

/-! ### Jobs with no pixels (R539) -/

theorem addressed_of_no_pixels {x : JobCtx} (h : x.args.width = 0#32 ∨ x.args.height = 0#32) : addressed x = false := by
  rcases h with h | h <;> simp [addressed, h]

/-- R511: without addresses to check, a legal command with legal registers and AMODE passes every check. -/
theorem firstErr_of_not_addressed {op : JobOp} {x : JobCtx} (hl : op.legal x = true)
    (hp : ∀ p ∈ checkedParams op x, isPosFinite (p.value x.args) = true) (ha : op.alpha x = true)
    (hx : addressed x = false) : firstErr op x = none := by
  simp [firstErr, hl, paramErr_none hp, ha, hx]

/-- R522: the completion of a job with no pixels, whatever its record holds. -/
theorem finishStep_buffer {op : JobOp} {x : JobCtx} (himm : x.f.imm = false) (s : State) (k : Option Job) :
    finishStep op x { s with job := k } = s.settled.complete := by
  rw [finishStep, himm, State.settled_update s k s.lut s.pixOut]
  simp [State.complete]

/-- Settles O20: the check step passes with no address looked at, and the completion follows. -/
theorem zeroSizeJobCompletes : Obligations.ZeroSizeJobCompletes := by
  intro i op c f s j hi hs hf himm hsize x hl hp ha
  have hx : addressed x = false := addressed_of_no_pixels hsize
  rw [exec_finish hi hs hf hx (firstErr_of_not_addressed hl hp ha hx)]
  exact congrArg _ (finishStep_buffer himm s _)

/-! ### The errors of the checks are precise (R521) -/

theorem finishStep_err (op : JobOp) (x : JobCtx) (s : State) : (finishStep op x s).err = s.err := by
  unfold finishStep
  split <;> exact s.settled_err

/-- R519: no access ends a job in an error other than BUS. -/
theorem Traversal.err {op : JobOp} {x : JobCtx} {s t : State} (h : Traversal op x s t) :
    t.err = s.err ∨ t.err = some .bus := by
  obtain _ | _ | _ := h
  · exact .inl rfl
  · exact .inl (State.settled_err _)
  · exact .inr rfl

/-- A job whose checks pass ends with the error it started with, or with BUS. -/
theorem exec_err_of_passed {i : Instr} {op : JobOp} {c : Cmd} {f : Fields} {s t : State} {j : Job}
    (hi : jobOf i = some (op, c)) (hs : Started s j) (hf : resolve c = some f)
    (hok : firstErr op (ctxOf s j f) = none) (ht : exec i s = .next t) : t.err = s.err ∨ t.err = some .bus := by
  cases hx : addressed (ctxOf s j f) with
  | true =>
    obtain ⟨u, hexec, -, htrav⟩ := exec_traversal hi hs hf hx hok
    cases ht.symm.trans hexec
    exact htrav.err
  | false =>
    cases ht.symm.trans (exec_finish hi hs hf hx hok)
    exact .inl (finishStep_err op _ _)

/-- How a job just accepted ends (R520, R522): in the error entry of a check, or with no error but BUS. -/
theorem exec_endings {i : Instr} {s t : State} {j : Job} (hs : Started s j) (ht : exec i s = .next t) :
    (∃ code lo hi, t = s.settled.errorEntry code lo hi) ∨ t.err = s.err ∨ t.err = some .bus := by
  cases hi : jobOf i with
  | none =>
    rw [jobOf_none hi] at ht
    cases ht.symm.trans (execNop_alone (hs.running ▸ Option.some_ne_none j) hs.alone)
    exact .inr (.inl s.settled_err)
  | some p =>
    obtain ⟨op, c⟩ := p
    cases hf : resolve c with
    | none =>
      cases ht.symm.trans (exec_of_unresolved hi hs hf)
      exact .inl ⟨_, _, _, rfl⟩
    | some f =>
      cases hok : firstErr op (ctxOf s j f) with
      | some e =>
        cases ht.symm.trans (exec_of_firstErr hi hs hf hok)
        exact .inl ⟨_, _, _, rfl⟩
      | none => exact .inr (exec_err_of_passed hi hs hf hok ht)

/-- Settles O34: of the endings, only the error entry of a check leaves an error other than BUS. -/
theorem checkErrorsArePrecise : Obligations.CheckErrorsArePrecise := by
  intro i s j t e hs hnone hexec herr hbus
  rcases exec_endings hs hexec with ⟨code, lo, hi, rfl⟩ | hkept | hfault
  · cases herr
    rfl
  · cases herr.symm.trans (hkept.trans hnone)
  · cases herr.symm.trans hfault
    exact absurd rfl hbus

end Sys2Proof.Machine
end
